-- ==== Sys2Proof/Word.lean ====
section
/-! DEFINITION. The word types of the CHIP-8 CORE (spec 00_scope.md R5, R6): every quantity the
spec treats as bits is an unsigned bit vector of the width given there. -/

namespace Sys2Proof

/-- Four bits: a digit of an instruction word (R72). -/
abbrev Nibble := BitVec 4

/-- A register, a memory cell or a `kk` immediate: 8 bits (R20, R37, R72). -/
abbrev Byte := BitVec 8

/-- The `nnn` field of an instruction word: 12 bits (R72). -/
abbrev Addr := BitVec 12

/-- `pc`, `I`, `opcode`, a stack cell or an instruction word: 16 bits (R33, R34, R71). -/
abbrev Word := BitVec 16

/-- The number of a general register, 0 to 15: every index an instruction can name exists (R20). -/
abbrev Reg := Fin 16

end Sys2Proof
end

