-- ==== Sys2Proof/Config.lean ====
section
/-! DEFINITION. What the spec leaves to the implementation: the draws of `RND` and the parameter
`FONT`, constants with no body, so that a claim holds whatever they are. The parameters that spec
00_scope.md R5 fixes are literals where they are used. -/

namespace Sys2Proof.Config

/-- The free values of `RND Vx, kk` (spec 00_scope.md R11, 42_alu.md R134, decision D8): draw number
`k` of a run. DESIGN CHOICE (log 2): safe for statements about one draw. -/
opaque draw8 : Nat → Byte

/-- `FONT` (spec 70_reset_and_hazards.md R193, decision D9, U6): the 80 glyph bytes that `Reset` copies
to 0x000 to 0x04F, a parameter of the model. A claim that depends on their values names the font it
assumes: `State.HoldsFont` says which font a state holds. DESIGN CHOICE (log 1): safe. -/
opaque font : Vector Byte 80

end Sys2Proof.Config
end

