-- ==== Sys2Proof/Syntax.lean ====
section
/-! DEFINITION. The 34 instructions of spec 30_encoding.md R77, one constructor per row of
spec/opcode_table.json, in the table's order. Operands are the decoded fields of R72: register
numbers, a byte `kk`, an address `nnn`, and the row count `n` of DRW as a number. -/

namespace Sys2Proof

/-- An instruction (R77). The comment after each constructor is its canonical pattern. -/
inductive Instr where
  /-- 00E0: clear the display (R152). -/
  | cls
  /-- 00EE: return from subroutine (R102). -/
  | ret
  /-- 1nnn: jump (R100). -/
  | jp (nnn : Addr)
  /-- 2nnn: call subroutine (R101). -/
  | call (nnn : Addr)
  /-- 3xkk: skip if V[x] = kk (R111). -/
  | seImm (x : Reg) (kk : Byte)
  /-- 4xkk: skip if V[x] ≠ kk (R112). -/
  | sneImm (x : Reg) (kk : Byte)
  /-- 5xy0: skip if V[x] = V[y] (R113). -/
  | seReg (x y : Reg)
  /-- 6xkk: load immediate (R123). -/
  | ldImm (x : Reg) (kk : Byte)
  /-- 7xkk: add immediate, no flag (R124). -/
  | addImm (x : Reg) (kk : Byte)
  /-- 8xy0: register copy (R125). -/
  | ldReg (x y : Reg)
  /-- 8xy1: bitwise or (R126). -/
  | orReg (x y : Reg)
  /-- 8xy2: bitwise and (R127). -/
  | andReg (x y : Reg)
  /-- 8xy3: bitwise exclusive or (R128). -/
  | xorReg (x y : Reg)
  /-- 8xy4: add with carry flag (R129). -/
  | addReg (x y : Reg)
  /-- 8xy5: subtract, flag = no borrow (R130). -/
  | subReg (x y : Reg)
  /-- 8xy6: shift right by one; `y` is decoded and ignored (R131). -/
  | shr (x y : Reg)
  /-- 8xy7: reverse subtract, flag = no borrow (R132). -/
  | subnReg (x y : Reg)
  /-- 8xyE: shift left by one; `y` is decoded and ignored (R133). -/
  | shl (x y : Reg)
  /-- 9xy0: skip if V[x] ≠ V[y] (R114). -/
  | sneReg (x y : Reg)
  /-- Annn: load the index register (R140). -/
  | ldI (nnn : Addr)
  /-- Bnnn: jump to nnn + V[0] (R103). -/
  | jpV0 (nnn : Addr)
  /-- Cxkk: masked random byte (R134). -/
  | rnd (x : Reg) (kk : Byte)
  /-- Dxyn: draw an n-row sprite (R153). -/
  | drw (x y : Reg) (n : Nat)
  /-- Ex9E: skip if the key V[x] is set (R115). -/
  | skp (x : Reg)
  /-- ExA1: skip if the key V[x] is clear (R116). -/
  | sknp (x : Reg)
  /-- Fx07: read the delay timer (R160). -/
  | ldVxDt (x : Reg)
  /-- Fx0A: wait for a key by re-fetch (R163). -/
  | ldVxK (x : Reg)
  /-- Fx15: set the delay timer (R161). -/
  | ldDtVx (x : Reg)
  /-- Fx18: set the sound timer (R162). -/
  | ldStVx (x : Reg)
  /-- Fx1E: add V[x] to I (R141). -/
  | addI (x : Reg)
  /-- Fx29: point I at a font glyph (R142). -/
  | ldF (x : Reg)
  /-- Fx33: store the decimal digits of V[x] (R143). -/
  | ldB (x : Reg)
  /-- Fx55: store V[0] to V[x] (R144). -/
  | ldMemV (x : Reg)
  /-- Fx65: load V[0] to V[x] (R145). -/
  | ldVMem (x : Reg)
  deriving DecidableEq, Repr

end Sys2Proof
end

