-- ==== Sys2Proof/Decode.lean ====
section
/-! DEFINITION. The decoder (spec 30_encoding.md R72, R78), total on all words and on any bytes, and
after it the encoder (R73, R77) and the opcode table (R77, R80) as data. -/

namespace Sys2Proof

/-- Field `op`, w[15:12] (R72). -/
def opField (w : Word) : Nibble := w.extractLsb' 12 4

/-- Field `x`, w[11:8], as a register number (R72, R75). -/
def xField (w : Word) : Reg := (w.extractLsb' 8 4).toFin

/-- Field `y`, w[7:4], as a register number (R72, R75). -/
def yField (w : Word) : Reg := (w.extractLsb' 4 4).toFin

/-- Field `n`, w[3:0] (R72). -/
def nField (w : Word) : Nibble := w.extractLsb' 0 4

/-- Field `kk` (and `lo` of family F), w[7:0] (R72). -/
def kkField (w : Word) : Byte := w.extractLsb' 0 8

/-- Field `nnn`, w[11:0] (R72). -/
def nnnField (w : Word) : Addr := w.extractLsb' 0 12

/-- Family 0 is keyed by the low nibble (R78). -/
def decodeFamily0 (w : Word) : Option Instr :=
  match nField w with
  | 0x0#4 => some .cls
  | 0xE#4 => some .ret
  | _ => none

/-- Family 8 is keyed by the low nibble (R78). -/
def decodeFamily8 (w : Word) : Option Instr :=
  match nField w with
  | 0x0#4 => some (.ldReg (xField w) (yField w))
  | 0x1#4 => some (.orReg (xField w) (yField w))
  | 0x2#4 => some (.andReg (xField w) (yField w))
  | 0x3#4 => some (.xorReg (xField w) (yField w))
  | 0x4#4 => some (.addReg (xField w) (yField w))
  | 0x5#4 => some (.subReg (xField w) (yField w))
  | 0x6#4 => some (.shr (xField w) (yField w))
  | 0x7#4 => some (.subnReg (xField w) (yField w))
  | 0xE#4 => some (.shl (xField w) (yField w))
  | _ => none

/-- Family E is keyed by the low nibble (R78). -/
def decodeFamilyE (w : Word) : Option Instr :=
  match nField w with
  | 0xE#4 => some (.skp (xField w))
  | 0x1#4 => some (.sknp (xField w))
  | _ => none

/-- Family F is keyed by the low byte (R78). -/
def decodeFamilyF (w : Word) : Option Instr :=
  match kkField w with
  | 0x07#8 => some (.ldVxDt (xField w))
  | 0x0A#8 => some (.ldVxK (xField w))
  | 0x15#8 => some (.ldDtVx (xField w))
  | 0x18#8 => some (.ldStVx (xField w))
  | 0x1E#8 => some (.addI (xField w))
  | 0x29#8 => some (.ldF (xField w))
  | 0x33#8 => some (.ldB (xField w))
  | 0x55#8 => some (.ldMemV (xField w))
  | 0x65#8 => some (.ldVMem (xField w))
  | _ => none

/-- `Decode(w)` (R78): the instruction a word selects, or `none` for the words of R81. Only the bits
the spec names are examined, so the alias words of R79 decode too (log 6). -/
def decodeWord (w : Word) : Option Instr :=
  match opField w with
  | 0x0#4 => decodeFamily0 w
  | 0x1#4 => some (.jp (nnnField w))
  | 0x2#4 => some (.call (nnnField w))
  | 0x3#4 => some (.seImm (xField w) (kkField w))
  | 0x4#4 => some (.sneImm (xField w) (kkField w))
  | 0x5#4 => some (.seReg (xField w) (yField w))
  | 0x6#4 => some (.ldImm (xField w) (kkField w))
  | 0x7#4 => some (.addImm (xField w) (kkField w))
  | 0x8#4 => decodeFamily8 w
  | 0x9#4 => some (.sneReg (xField w) (yField w))
  | 0xA#4 => some (.ldI (nnnField w))
  | 0xB#4 => some (.jpV0 (nnnField w))
  | 0xC#4 => some (.rnd (xField w) (kkField w))
  | 0xD#4 => some (.drw (xField w) (yField w) (nField w).toNat)
  | 0xE#4 => decodeFamilyE w
  | 0xF#4 => decodeFamilyF w
  | _ => none

/-- Why bytes are no instruction. -/
inductive DecodeError where
  /-- the word selects no instruction (R81); raised by `decode`; safe -/
  | unimplemented (w : Word)
  /-- fewer than two bytes were given (R71); raised by `decode`, never by a fetch; safe -/
  | truncated
  deriving DecidableEq, Repr

/-- An instruction word of two bytes, the high byte at the lower address (R52, R71). -/
def wordOfBytes (hi lo : Byte) : Word := hi ++ lo

/-- Decode the instruction at the front of a list of bytes, and the bytes after it. -/
def decode : List Byte → Except DecodeError (Instr × List Byte)
  | hi :: lo :: rest =>
    match decodeWord (wordOfBytes hi lo) with
    | some i => .ok (i, rest)
    | none => .error (.unimplemented (wordOfBytes hi lo))
  | _ => .error .truncated

/-- The high byte of a word, stored at the lower address (R71). -/
def highByte (w : Word) : Byte := w.extractLsb' 8 8

/-- The low byte of a word (R71). -/
def lowByte (w : Word) : Byte := w.extractLsb' 0 8

/-- The two bytes of a word as they lie in memory, ascending addresses (R52, R71). -/
def wordBytes (w : Word) : List Byte := [highByte w, lowByte w]

/-! ## The encoder -/

/-- A register number as the four bits of its field. -/
def regBits (r : Reg) : Nibble := BitVec.ofFin r

/-- Four digits, most significant first: formats Z, XY, XYN and X (R73). -/
def digits (a b c d : Nibble) : Word := a ++ b ++ c ++ d

/-- A family, a register and a byte: formats XK and, for family F, X (R73). -/
def digitsByte (a b : Nibble) (kk : Byte) : Word := a ++ b ++ kk

/-- A family and an address: format A (R73). -/
def digitAddr (a : Nibble) (nnn : Addr) : Word := a ++ nnn

/-- The canonical word of an instruction (R77, R79: "An assembler emits the canonical pattern only").
A row count of 16 or more does not fit its field: such an instruction is not well formed. -/
def encode : Instr → Word
  | .cls => digits 0x0 0x0 0xE 0x0
  | .ret => digits 0x0 0x0 0xE 0xE
  | .jp nnn => digitAddr 0x1 nnn
  | .call nnn => digitAddr 0x2 nnn
  | .seImm x kk => digitsByte 0x3 (regBits x) kk
  | .sneImm x kk => digitsByte 0x4 (regBits x) kk
  | .seReg x y => digits 0x5 (regBits x) (regBits y) 0x0
  | .ldImm x kk => digitsByte 0x6 (regBits x) kk
  | .addImm x kk => digitsByte 0x7 (regBits x) kk
  | .ldReg x y => digits 0x8 (regBits x) (regBits y) 0x0
  | .orReg x y => digits 0x8 (regBits x) (regBits y) 0x1
  | .andReg x y => digits 0x8 (regBits x) (regBits y) 0x2
  | .xorReg x y => digits 0x8 (regBits x) (regBits y) 0x3
  | .addReg x y => digits 0x8 (regBits x) (regBits y) 0x4
  | .subReg x y => digits 0x8 (regBits x) (regBits y) 0x5
  | .shr x y => digits 0x8 (regBits x) (regBits y) 0x6
  | .subnReg x y => digits 0x8 (regBits x) (regBits y) 0x7
  | .shl x y => digits 0x8 (regBits x) (regBits y) 0xE
  | .sneReg x y => digits 0x9 (regBits x) (regBits y) 0x0
  | .ldI nnn => digitAddr 0xA nnn
  | .jpV0 nnn => digitAddr 0xB nnn
  | .rnd x kk => digitsByte 0xC (regBits x) kk
  | .drw x y n => digits 0xD (regBits x) (regBits y) (BitVec.ofNat 4 n)
  | .skp x => digits 0xE (regBits x) 0x9 0xE
  | .sknp x => digits 0xE (regBits x) 0xA 0x1
  | .ldVxDt x => digitsByte 0xF (regBits x) 0x07
  | .ldVxK x => digitsByte 0xF (regBits x) 0x0A
  | .ldDtVx x => digitsByte 0xF (regBits x) 0x15
  | .ldStVx x => digitsByte 0xF (regBits x) 0x18
  | .addI x => digitsByte 0xF (regBits x) 0x1E
  | .ldF x => digitsByte 0xF (regBits x) 0x29
  | .ldB x => digitsByte 0xF (regBits x) 0x33
  | .ldMemV x => digitsByte 0xF (regBits x) 0x55
  | .ldVMem x => digitsByte 0xF (regBits x) 0x65

/-- The two bytes of an instruction as they lie in memory (R71). -/
def encodeBytes (i : Instr) : List Byte := wordBytes (encode i)

/-! ## The opcode table -/

/-- The mnemonic of an instruction's row, as spec/opcode_table.json spells it. -/
def mnemonic : Instr → String
  | .cls => "CLS"
  | .ret => "RET"
  | .jp _ => "JP_nnn"
  | .call _ => "CALL_nnn"
  | .seImm _ _ => "SE_Vx__kk"
  | .sneImm _ _ => "SNE_Vx__kk"
  | .seReg _ _ => "SE_Vx__Vy"
  | .ldImm _ _ => "LD_Vx__kk"
  | .addImm _ _ => "ADD_Vx__kk"
  | .ldReg _ _ => "LD_Vx__Vy"
  | .orReg _ _ => "OR_Vx__Vy"
  | .andReg _ _ => "AND_Vx__Vy"
  | .xorReg _ _ => "XOR_Vx__Vy"
  | .addReg _ _ => "ADD_Vx__Vy"
  | .subReg _ _ => "SUB_Vx__Vy"
  | .shr _ _ => "SHR_Vx"
  | .subnReg _ _ => "SUBN_Vx__Vy"
  | .shl _ _ => "SHL_Vx"
  | .sneReg _ _ => "SNE_Vx__Vy"
  | .ldI _ => "LD_I__nnn"
  | .jpV0 _ => "JP_V0__nnn"
  | .rnd _ _ => "RND_Vx__kk"
  | .drw _ _ _ => "DRW_Vx__Vy__n"
  | .skp _ => "SKP_Vx"
  | .sknp _ => "SKNP_Vx"
  | .ldVxDt _ => "LD_Vx__DT"
  | .ldVxK _ => "LD_Vx__K"
  | .ldDtVx _ => "LD_DT__Vx"
  | .ldStVx _ => "LD_ST__Vx"
  | .addI _ => "ADD_I__Vx"
  | .ldF _ => "LD_F__Vx"
  | .ldB _ => "LD_B__Vx"
  | .ldMemV _ => "LD__I___Vx"
  | .ldVMem _ => "LD_Vx___I"

/-- A row of the opcode map: a word selects the row when `w &&& mask = value` (R77, R80). -/
structure OpcodeRow where
  name : String
  mask : Word
  value : Word
  deriving DecidableEq, Repr

/-- Rows 1 to 12 of R77. -/
def opcodeRowsA : List OpcodeRow :=
  [⟨"CLS", 0xF00F, 0x0000⟩, ⟨"RET", 0xF00F, 0x000E⟩, ⟨"JP_nnn", 0xF000, 0x1000⟩,
   ⟨"CALL_nnn", 0xF000, 0x2000⟩, ⟨"SE_Vx__kk", 0xF000, 0x3000⟩, ⟨"SNE_Vx__kk", 0xF000, 0x4000⟩,
   ⟨"SE_Vx__Vy", 0xF000, 0x5000⟩, ⟨"LD_Vx__kk", 0xF000, 0x6000⟩, ⟨"ADD_Vx__kk", 0xF000, 0x7000⟩,
   ⟨"LD_Vx__Vy", 0xF00F, 0x8000⟩, ⟨"OR_Vx__Vy", 0xF00F, 0x8001⟩, ⟨"AND_Vx__Vy", 0xF00F, 0x8002⟩]

/-- Rows 13 to 23 of R77. -/
def opcodeRowsB : List OpcodeRow :=
  [⟨"XOR_Vx__Vy", 0xF00F, 0x8003⟩, ⟨"ADD_Vx__Vy", 0xF00F, 0x8004⟩, ⟨"SUB_Vx__Vy", 0xF00F, 0x8005⟩,
   ⟨"SHR_Vx", 0xF00F, 0x8006⟩, ⟨"SUBN_Vx__Vy", 0xF00F, 0x8007⟩, ⟨"SHL_Vx", 0xF00F, 0x800E⟩,
   ⟨"SNE_Vx__Vy", 0xF000, 0x9000⟩, ⟨"LD_I__nnn", 0xF000, 0xA000⟩, ⟨"JP_V0__nnn", 0xF000, 0xB000⟩,
   ⟨"RND_Vx__kk", 0xF000, 0xC000⟩, ⟨"DRW_Vx__Vy__n", 0xF000, 0xD000⟩]

/-- Rows 24 to 34 of R77. -/
def opcodeRowsC : List OpcodeRow :=
  [⟨"SKP_Vx", 0xF00F, 0xE00E⟩, ⟨"SKNP_Vx", 0xF00F, 0xE001⟩, ⟨"LD_Vx__DT", 0xF0FF, 0xF007⟩,
   ⟨"LD_Vx__K", 0xF0FF, 0xF00A⟩, ⟨"LD_DT__Vx", 0xF0FF, 0xF015⟩, ⟨"LD_ST__Vx", 0xF0FF, 0xF018⟩,
   ⟨"ADD_I__Vx", 0xF0FF, 0xF01E⟩, ⟨"LD_F__Vx", 0xF0FF, 0xF029⟩, ⟨"LD_B__Vx", 0xF0FF, 0xF033⟩,
   ⟨"LD__I___Vx", 0xF0FF, 0xF055⟩, ⟨"LD_Vx___I", 0xF0FF, 0xF065⟩]

/-- The 34 rows of R77 with the (mask, match) pairs the spec prints. -/
def opcodeTable : List OpcodeRow := opcodeRowsA ++ opcodeRowsB ++ opcodeRowsC

/-! ## The host's view of a table word -/

/-- The bytes in memory of an instruction whose bits are `w`, of which the table gives `nbits`; the
bits above are zero. Every instruction here is one 16-bit word (R71). -/
def tableBytes (nbits w : Nat) : List Byte := wordBytes (BitVec.ofNat 16 (w % 2 ^ nbits))

/-- The instruction `decode` reads from those bytes. -/
def decodeTableWord (nbits w : Nat) : Option Instr :=
  match decode (tableBytes nbits w) with
  | .ok (i, _) => some i
  | .error _ => none

end Sys2Proof
end

