-- ==== Sys2Proof/Machine/Display.lean ====
section
/-! DEFINITION. The display unit (spec 10_state.md R38, 44_display.md R150, R151): 64 columns by 32
rows of one-bit pixels, held as 32 rows of 64 bits, column 0 (the leftmost) in bit 0. The unit's two
operations are `clear` and `draw_byte`. -/

namespace Sys2Proof.Machine

/-- The framebuffer `gfx`: row r, column c is the spec's cell `gfx[r * 64 + c]` (R38). -/
abbrev Display := Vector (BitVec 64) 32

/-- Column `n mod 64` (R151). -/
def column (n : Nat) : Fin 64 := ⟨n % 64, Nat.mod_lt n (by decide)⟩

/-- Row `n mod 32` (R151). -/
def line (n : Nat) : Fin 32 := ⟨n % 32, Nat.mod_lt n (by decide)⟩

/-- The pixel at column `c`, row `r`: on or off (R38). -/
def pixel (g : Display) (c : Fin 64) (r : Fin 32) : Bool := g[r].getLsbD c

/-- Set the pixel at column `c`, row `r` to `b`. -/
def setPixel (g : Display) (c : Fin 64) (r : Fin 32) (b : Bool) : Display :=
  if pixel g c r = b then g else g.set r (g[r] ^^^ BitVec.twoPow 64 c)

/-- All pixels off: the value after `Reset` and after `clear` (R38, R152). -/
def blankDisplay : Display := Vector.replicate 32 0

/-- The eight bits of a sprite row, leftmost pixel first: "most significant bit first" (R151). -/
def spriteBits (b : Byte) : List Bool :=
  [b.getLsbD 7, b.getLsbD 6, b.getLsbD 5, b.getLsbD 4,
   b.getLsbD 3, b.getLsbD 2, b.getLsbD 1, b.getLsbD 0]

/-- The loop of `draw_byte` from pixel number `j` on (R151): each bit is exclusive-ored into its
pixel, columns wrapping around the right edge, and a set bit on a set pixel is a collision. -/
def drawBits (g : Display) (x0 : Nat) (r : Fin 32) : List Bool → Nat → Display × Bool
  | [], _ => (g, false)
  | bit :: bits, j =>
    let c := column (x0 + j)
    let old := pixel g c r
    let rest := drawBits (setPixel g c r (old ^^ bit)) x0 r bits (j + 1)
    (rest.1, (bit && old) || rest.2)

/-- `draw_byte(xc, yc, b)` (R151): draw one sprite row; the second part is the collision bit. -/
def drawByte (g : Display) (xc yc : Nat) (b : Byte) : Display × Bool :=
  drawBits g (xc % 64) (line yc) (spriteBits b) 0

/-- The loop of DRW from sprite row `r` on (R153): the row advances by 1, wrapping at 32; the second
part says whether any row collided. -/
def drawRows (g : Display) (xc yc : Nat) : List Byte → Nat → Display × Bool
  | [], _ => (g, false)
  | b :: rows, r =>
    let first := drawByte g xc ((yc + r) % 32) b
    let rest := drawRows first.1 xc yc rows (r + 1)
    (rest.1, first.2 || rest.2)

end Sys2Proof.Machine
end

