-- ==== Sys2Proof/Machine/Memory.lean ====
section
/-! DEFINITION. The 4096-byte memory `mem` (spec 10_state.md R37, 20_memory.md R50 to R58) as a list
of (address, byte) pairs: addresses strictly rising, below 4096, and no entry equal to what an
unlisted address reads as. -/

namespace Sys2Proof.Machine

/-- The contents of memory: the cells that differ from their value after `Reset`. -/
abbrev Memory := List Host.Cell

/-- What an unlisted address reads as: the contents after `Reset` (R42), `FONT[a]` for a in 0x000 to
0x04F, a free value (R193, log 1), and 0 for every other address. -/
def resetByte (a : Nat) : Byte := if h : a < 80 then Config.font[a] else 0

/-- The listed byte of an address. -/
def Memory.lookup : Memory → Nat → Option Byte
  | [], _ => none
  | (c, b) :: m, a => if c = a then some b else Memory.lookup m a

/-- The byte an address holds. It has no side effect (R55). -/
def Memory.read (m : Memory) (a : Nat) : Byte := (Memory.lookup m a).getD (resetByte a)

/-- List a byte at its place in the rising order, replacing the entry of the same address. -/
def Memory.insert : Memory → Nat → Byte → Memory
  | [], a, b => [(a, b)]
  | (c, d) :: m, a, b =>
    if a < c then (a, b) :: (c, d) :: m
    else if a = c then (a, b) :: m
    else (c, d) :: Memory.insert m a b

/-- Unlist an address. -/
def Memory.erase : Memory → Nat → Memory
  | [], _ => []
  | (c, d) :: m, a => if c = a then Memory.erase m a else (c, d) :: Memory.erase m a

/-- Write one byte (R55: a write changes that one cell only), keeping the canonical form: writing
what an unlisted address reads as removes the entry. -/
def Memory.write (m : Memory) (a : Nat) (b : Byte) : Memory :=
  if b = resetByte a then Memory.erase m a else Memory.insert m a b

/-- Every listed address is above `a`. -/
def Memory.above (a : Nat) (m : Memory) : Bool :=
  match m with
  | [] => true
  | (c, _) :: _ => decide (a < c)

/-- The canonical form. -/
def Memory.wf : Memory → Bool
  | [] => true
  | (a, b) :: m => decide (a < 4096) && decide (b ≠ resetByte a) && Memory.above a m && Memory.wf m

end Sys2Proof.Machine
end

