-- ==== Sys2Proof/Machine/State.lean ====
section
/-! DEFINITION. The architectural state (spec 10_state.md R20 to R42): the eleven components the spec
names and the counter of random draws, which is the model's own; the reasons a step can stop; and the
state after `Reset`. -/

namespace Sys2Proof.Machine

/-- The state of the CORE. -/
structure State where
  /-- V[0] to V[15], 8 bits each (R20) -/
  v : Vector Byte 16
  /-- I, 16 bits, reduced mod 4096 only at an access (R28) -/
  i : Word
  /-- pc, 16 bits, reduced mod 4096 only at a fetch (R23, R25) -/
  pc : Word
  /-- sp, 8 bits: the number of live stack cells, 0 to 16 (R29) -/
  sp : Byte
  /-- stack[0] to stack[15], 16 bits each (R34) -/
  stack : Vector Word 16
  /-- DT, the delay timer (R30) -/
  dt : Byte
  /-- ST, the sound timer (R31) -/
  st : Byte
  /-- key[0] to key[15], true when set (R35) -/
  key : Vector Bool 16
  /-- the last fetched word (R32) -/
  opcode : Word
  /-- mem, 4096 bytes (R37) -/
  mem : Memory
  /-- gfx, 64 x 32 pixels (R38) -/
  gfx : Display
  /-- the model's own: how many draws RND has taken (R11, R134; log 2) -/
  draws : Nat
  deriving DecidableEq, Repr

/-- The conditions a Step reports (R170 to R172); each is terminal until `Reset` (R177). -/
inductive Fault where
  /-- the fetched word selects no instruction (R170, R81); raised by the step itself, with the word;
  the spec's own condition -/
  | unimplementedInstruction (w : Word)
  /-- CALL with all 16 stack cells live (R171); raised by `execCall`; the spec's choice D1 where its
  source says undefined; safe (log 3) -/
  | stackOverflow
  /-- RET with no live stack cell (R172); raised by `execRet`; the spec's choice D1; safe (log 3) -/
  | stackUnderflow
  /-- RET with sp in 17 to 255, which no run reaches (R29, R43): there is no cell to pop; raised by
  `execRet`; DESIGN CHOICE, safe (log 4) -/
  | stackPointerOutOfRange
  deriving DecidableEq, Repr

/-- What has no meaning in the model. A Step answers none of these: the last three are the host's
operations that the spec leaves without a meaning. -/
inductive Refusal where
  /-- an instruction with no meaning yet; raised by arms of `exec` (none is left); safe -/
  | notModelled (mnemonic : String)
  /-- any operation but `Reset` after a condition (R177, U4); raised by `perform`; safe -/
  | operationAfterCondition
  /-- a load after the first Step (R194, R196); raised by `perform`; safe -/
  | loadAfterFirstStep
  /-- a program image of more than 3584 bytes (R194, U12); raised by `perform`; safe -/
  | imageTooLong
  deriving DecidableEq, Repr

/-- The three outcomes of a Step. -/
abbrev StepResult := Host.Outcome State Fault Refusal

/-- The state after `Reset` (R42): everything zero but `pc` = 0x200 and the font bytes, which are what
the unlisted addresses 0x000 to 0x04F read as. The draw counter starts at 0 (DESIGN CHOICE, log 2). -/
def State.reset : State :=
  { v := Vector.replicate 16 0
    i := 0
    pc := 0x200
    sp := 0
    stack := Vector.replicate 16 0
    dt := 0
    st := 0
    key := Vector.replicate 16 false
    opcode := 0
    mem := []
    gfx := blankDisplay
    draws := 0 }

end Sys2Proof.Machine
end

