-- ==== Sys2Proof/Machine/Ops.lean ====
section
/-! DEFINITION. The named operations over registers, stack and memory, the fetch, the skip, and the
report of a condition (spec 00_scope.md R8 to R11, 30_encoding.md R70, 41_skip.md R110,
60_exceptions.md R170 to R178). Every meaning is written over these. -/

namespace Sys2Proof.Machine

/-! ## Registers, one home each (R8) -/

/-- V[r]. -/
def State.getV (s : State) (r : Reg) : Byte := s.v[r]

/-- V[r] <- b. -/
def State.setV (s : State) (r : Reg) (b : Byte) : State := { s with v := s.v.set r b }

/-- All sixteen registers at once. -/
def State.setRegs (s : State) (v : Vector Byte 16) : State := { s with v := v }

/-- I <- w. -/
def State.setI (s : State) (w : Word) : State := { s with i := w }

/-- pc <- w. -/
def State.setPc (s : State) (w : Word) : State := { s with pc := w }

/-- sp <- b. -/
def State.setSp (s : State) (b : Byte) : State := { s with sp := b }

/-- stack[k] <- w. -/
def State.setCell (s : State) (k : Fin 16) (w : Word) : State := { s with stack := s.stack.set k w }

/-- DT <- b. -/
def State.setDt (s : State) (b : Byte) : State := { s with dt := b }

/-- ST <- b. -/
def State.setSt (s : State) (b : Byte) : State := { s with st := b }

/-- key[k] <- b: a move of the host only (R35). -/
def State.setKey (s : State) (k : Fin 16) (b : Bool) : State := { s with key := s.key.set k b }

/-- opcode <- w (R32). -/
def State.setOpcode (s : State) (w : Word) : State := { s with opcode := w }

/-- The contents of memory. -/
def State.setMem (s : State) (m : Memory) : State := { s with mem := m }

/-- The display's pixels. -/
def State.setGfx (s : State) (g : Display) : State := { s with gfx := g }

/-- Count one draw. -/
def State.countDraw (s : State) : State := { s with draws := s.draws + 1 }

/-- `draw8()` (R11): the free value of the next draw. -/
def State.draw8 (s : State) : Byte := Config.draw8 s.draws

/-! ## Memory (R9, R51): every address is reduced mod 4096 at the access -/

/-- `MemRead(a, 1)`. -/
def State.memRead (s : State) (a : Nat) : Byte := Memory.read s.mem (a % 4096)

/-- `MemWrite(a, 1, b)`. -/
def State.memWrite (s : State) (a : Nat) (b : Byte) : State :=
  s.setMem (Memory.write s.mem (a % 4096) b)

/-- The bytes at `a`, `a + 1`, ..., `a + n - 1`, each address reduced on its own (R51). -/
def State.memReadBytes (s : State) (a n : Nat) : List Byte :=
  (List.range n).map fun k => s.memRead (a + k)

/-- Store bytes at `a`, `a + 1`, ..., each address reduced on its own (R51). -/
def State.memWriteBytes (s : State) (a : Nat) : List Byte → State
  | [] => s
  | b :: bs => (s.memWrite a b).memWriteBytes (a + 1) bs

/-! ## The fetch (R70) -/

/-- `MemRead(pc, 2)`: the high byte at the lower address (R9, R52). -/
def State.fetchWord (s : State) : Word :=
  wordOfBytes (s.memRead s.pc.toNat) (s.memRead (s.pc.toNat + 1))

/-- What the fetch does before the instruction's effect: `opcode` latches the word and `pc` advances
by 2 mod 2^16 (R70, R23, R32). -/
def State.fetched (s : State) : State := (s.setOpcode s.fetchWord).setPc (s.pc + 2)

/-! ## Skip (R110) -/

/-- Add 2 to the already advanced `pc` when the condition holds. -/
def State.skipIf (s : State) (c : Bool) : State := if c then s.setPc (s.pc + 2) else s

/-! ## Conditions (R170 to R178): taking one, and the only way back -/

/-- `raise`: the Step ends with the condition as its result. Nothing is saved and no handler runs
(R176, R177); the state left behind is `State.fetched` of the state before (R176). -/
def raise (c : Fault) : StepResult := .fault c

/-- `Reset` (R190): every component at its value of R42, whatever the state before; the way back from
a condition (R178). The draw counter is not a component of the spec's and goes on, so that no draw
after a `Reset` repeats an earlier one (log 2). -/
def resetState (s : State) : State := { State.reset with draws := s.draws }

/-! ## The return stack (R29, R34) -/

/-- Push `pc` (R101): store at `stack[sp]`, then increment `sp`; overflow when no cell is free. -/
def State.pushPc (s : State) : Except Fault State :=
  if h : s.sp.toNat < 16 then .ok ((s.setCell ⟨s.sp.toNat, h⟩ s.pc).setSp (s.sp + 1))
  else .error .stackOverflow

/-- Pop into `pc` (R102): decrement `sp`, then load from `stack[sp]`; underflow when no cell is
live. The popped cell keeps its value (R34). -/
def State.popPc (s : State) : Except Fault State :=
  if s.sp = 0 then .error .stackUnderflow
  else if h : s.sp.toNat - 1 < 16 then .ok ((s.setSp (s.sp - 1)).setPc s.stack[s.sp.toNat - 1])
  else .error .stackPointerOutOfRange

end Sys2Proof.Machine
end

