-- ==== Sys2Proof/Machine/Operands.lean ====
section
/-! DEFINITION. The operand forms (spec 30_encoding.md R74 to R76, 43_index_memory.md R146): how an
immediate, a register, the index register or the keypad gives an instruction its operands. -/

namespace Sys2Proof.Machine

/-- `zext_16(nnn)` (R74). -/
def zextAddr (nnn : Addr) : Word := nnn.setWidth 16

/-- `zext_16(V[x])` (R74). -/
def zextByte (b : Byte) : Word := b.setWidth 16

/-- The base address of the one data addressing mode, `I` (R146); an offset is added to it as a
number and the sum is reduced mod 4096 at the access. -/
def State.indexBase (s : State) : Nat := s.i.toNat

/-- The key a register selects: its value mod 16 (R115, decision D6, log 9). -/
def keyIndex (b : Byte) : Fin 16 := ⟨b.toNat % 16, Nat.mod_lt _ (by decide)⟩

/-- Whether the key that V[x] selects is set (R115, R116). -/
def State.keySelected (s : State) (x : Reg) : Bool := s.key[keyIndex (s.getV x)]

/-- The least k with key[k] set, if there is one (R163). -/
def State.firstKey (s : State) : Option (Fin 16) := (List.finRange 16).find? fun k => s.key[k]

/-- The three decimal digits of a byte, hundreds first (R143). -/
def decimalDigits (b : Byte) : List Byte :=
  [BitVec.ofNat 8 (b.toNat / 100), BitVec.ofNat 8 (b.toNat / 10 % 10), BitVec.ofNat 8 (b.toNat % 10)]

/-- V[0] to V[x], x + 1 bytes (R75, R144). -/
def State.regsUpTo (s : State) (x : Reg) : List Byte := s.v.toList.take (x.val + 1)

/-- Load V[0] to V[x] from the bytes at `a`, `a + 1`, ... (R75, R145). -/
def State.loadRegs (s : State) (a : Nat) (x : Reg) : State :=
  s.setRegs (Vector.ofFn fun r => if r ≤ x then s.memRead (a + r.val) else s.getV r)

/-- The address of a font glyph: the whole byte times 5 (R142). -/
def glyphAddress (b : Byte) : Word := BitVec.ofNat 16 (b.toNat * 5)

end Sys2Proof.Machine
end

