-- ==== Sys2Proof/Machine/Flags.lean ====
section
/-! DEFINITION. The flag computations (spec 10_state.md R26, R27; 42_alu.md R120, R121, R129 to R133):
all unsigned, computed from the operand values before the instruction. -/

namespace Sys2Proof.Machine

/-- VF, the register that receives flags (R8, R26). -/
abbrev regVF : Reg := 15

/-- A flag as the byte VF holds: 1 or 0 (R26). -/
def flagByte (f : Bool) : Byte := if f then 1 else 0

/-- The carry of 8xy4: the unmodded sum exceeds 255 (R129). -/
def carryOf (a b : Byte) : Bool := decide (a.toNat + b.toNat > 255)

/-- The no-borrow flag of `a - b`: strictly greater, unsigned (R121, R130, R132). -/
def noBorrowOf (a b : Byte) : Bool := decide (a.toNat > b.toNat)

/-- The bit 8xy6 shifts out (R131). -/
def lowBitOf (a : Byte) : Bool := a.getLsbD 0

/-- The bit 8xyE shifts out (R133). -/
def highBitOf (a : Byte) : Bool := a.getLsbD 7

/-- `(a + b) mod 256` (R120). -/
def sumOf (a b : Byte) : Byte := BitVec.ofNat 8 (a.toNat + b.toNat)

/-- `(a - b) mod 256`, the non-negative remainder (R7, R120). -/
def differenceOf (a b : Byte) : Byte := BitVec.ofInt 8 ((a.toNat : Int) - (b.toNat : Int))

/-- `a div 2` (R120, R131). -/
def halfOf (a : Byte) : Byte := BitVec.ofNat 8 (a.toNat / 2)

/-- `(a * 2) mod 256` (R120, R133). -/
def doubleOf (a : Byte) : Byte := BitVec.ofNat 8 (a.toNat * 2)

/-- Write the flag, unconditionally (R26). -/
def State.setFlag (s : State) (f : Bool) : State := s.setV regVF (flagByte f)

/-- The order of R26: the result to V[x], then the flag to VF. -/
def State.setResultAndFlag (s : State) (x : Reg) (result : Byte) (f : Bool) : State :=
  (s.setV x result).setFlag f

end Sys2Proof.Machine
end

