-- ==== Sys2Proof/Machine/Alu.lean ====
section
/-! DEFINITION. Register loads and the arithmetic-logic unit (spec 42_alu.md R123 to R134). -/

namespace Sys2Proof.Machine

/-- 6xkk (R123). -/
def execLdImm (x : Reg) (kk : Byte) (s : State) : StepResult := .next (s.setV x kk)

/-- 7xkk (R124): no flag. -/
def execAddImm (x : Reg) (kk : Byte) (s : State) : StepResult := .next (s.setV x (sumOf (s.getV x) kk))

/-- 8xy0 (R125). -/
def execLdReg (x y : Reg) (s : State) : StepResult := .next (s.setV x (s.getV y))

/-- 8xy1 (R126): VF is not written. -/
def execOrReg (x y : Reg) (s : State) : StepResult := .next (s.setV x (s.getV x ||| s.getV y))

/-- 8xy2 (R127): VF is not written. -/
def execAndReg (x y : Reg) (s : State) : StepResult := .next (s.setV x (s.getV x &&& s.getV y))

/-- 8xy3 (R128): VF is not written. -/
def execXorReg (x y : Reg) (s : State) : StepResult := .next (s.setV x (s.getV x ^^^ s.getV y))

/-- 8xy4 (R129). -/
def execAddReg (x y : Reg) (s : State) : StepResult :=
  .next (s.setResultAndFlag x (sumOf (s.getV x) (s.getV y)) (carryOf (s.getV x) (s.getV y)))

/-- 8xy5 (R130). -/
def execSubReg (x y : Reg) (s : State) : StepResult :=
  .next (s.setResultAndFlag x (differenceOf (s.getV x) (s.getV y)) (noBorrowOf (s.getV x) (s.getV y)))

/-- 8xy6 (R131): V[y] is neither read nor written. -/
def execShr (x _y : Reg) (s : State) : StepResult :=
  .next (s.setResultAndFlag x (halfOf (s.getV x)) (lowBitOf (s.getV x)))

/-- 8xy7 (R132). -/
def execSubnReg (x y : Reg) (s : State) : StepResult :=
  .next (s.setResultAndFlag x (differenceOf (s.getV y) (s.getV x)) (noBorrowOf (s.getV y) (s.getV x)))

/-- 8xyE (R133): V[y] is neither read nor written. -/
def execShl (x _y : Reg) (s : State) : StepResult :=
  .next (s.setResultAndFlag x (doubleOf (s.getV x)) (highBitOf (s.getV x)))

/-- Cxkk (R134): `kk & d` for a free draw `d`, which is taken from the sequence of draws (log 2). -/
def execRnd (x : Reg) (kk : Byte) (s : State) : StepResult :=
  .next ((s.setV x (kk &&& s.draw8)).countDraw)

end Sys2Proof.Machine
end

