-- ==== Sys2Proof/Machine/Flow.lean ====
section
/-! DEFINITION. Control transfer (spec 40_flow.md): JP, CALL, RET, JP V0. `pc` already holds the
address of the next instruction (30_encoding.md R70). -/

namespace Sys2Proof.Machine

/-- 1nnn (R100). -/
def execJp (nnn : Addr) (s : State) : StepResult := .next (s.setPc (zextAddr nnn))

/-- 2nnn (R101): push the advanced `pc`, or raise `StackOverflow` with nothing written. -/
def execCall (nnn : Addr) (s : State) : StepResult :=
  match s.pushPc with
  | .ok t => .next (t.setPc (zextAddr nnn))
  | .error c => raise c

/-- 00EE (R102): pop `pc`, or raise `StackUnderflow` with nothing written. -/
def execRet (s : State) : StepResult :=
  match s.popPc with
  | .ok t => .next t
  | .error c => raise c

/-- Bnnn (R103): the sum is at most 0x10FE and is not reduced. -/
def execJpV0 (nnn : Addr) (s : State) : StepResult :=
  .next (s.setPc (zextAddr nnn + zextByte (s.getV 0)))

end Sys2Proof.Machine
end

