-- ==== Sys2Proof/Machine/IndexMemory.lean ====
section
/-! DEFINITION. The index register and memory (spec 43_index_memory.md R140 to R146). -/

namespace Sys2Proof.Machine

/-- Annn (R140). -/
def execLdI (nnn : Addr) (s : State) : StepResult := .next (s.setI (zextAddr nnn))

/-- Fx1E (R141): mod 2^16, no flag. -/
def execAddI (x : Reg) (s : State) : StepResult := .next (s.setI (s.i + zextByte (s.getV x)))

/-- Fx29 (R142): the whole 8-bit V[x] times 5. -/
def execLdF (x : Reg) (s : State) : StepResult := .next (s.setI (glyphAddress (s.getV x)))

/-- Fx33 (R143): hundreds, tens and ones at I, I + 1, I + 2. -/
def execLdB (x : Reg) (s : State) : StepResult :=
  .next (s.memWriteBytes s.indexBase (decimalDigits (s.getV x)))

/-- Fx55 (R144): V[0] to V[x] at I to I + x; I is not changed. -/
def execLdMemV (x : Reg) (s : State) : StepResult :=
  .next (s.memWriteBytes s.indexBase (s.regsUpTo x))

/-- Fx65 (R145): V[0] to V[x] from I to I + x; I is not changed. -/
def execLdVMem (x : Reg) (s : State) : StepResult := .next (s.loadRegs s.indexBase x)

end Sys2Proof.Machine
end

