-- ==== Sys2Proof/Machine/Screen.lean ====
section
/-! DEFINITION. The display instructions (spec 44_display.md R152, R153). -/

namespace Sys2Proof.Machine

/-- 00E0 (R152). -/
def execCls (s : State) : StepResult := .next (s.setGfx blankDisplay)

/-- What Dxyn draws: the display and whether a row collided, from the n bytes at I and the
coordinates V[x], V[y] as they are before VF is written (R153). -/
def State.drawSprite (s : State) (x y : Reg) (n : Nat) : Display × Bool :=
  drawRows s.gfx (s.getV x).toNat (s.getV y).toNat (s.memReadBytes s.indexBase n) 0

/-- Dxyn (R153): the display, then the collision flag, written unconditionally and last (R26). -/
def execDrw (x y : Reg) (n : Nat) (s : State) : StepResult :=
  .next ((s.setGfx (s.drawSprite x y n).1).setFlag (s.drawSprite x y n).2)

end Sys2Proof.Machine
end

