-- ==== Sys2Proof/Machine/Skip.lean ====
section
/-! DEFINITION. The conditional skips (spec 41_skip.md R110 to R116). -/

namespace Sys2Proof.Machine

/-- 3xkk (R111). -/
def execSeImm (x : Reg) (kk : Byte) (s : State) : StepResult := .next (s.skipIf (s.getV x == kk))

/-- 4xkk (R112). -/
def execSneImm (x : Reg) (kk : Byte) (s : State) : StepResult := .next (s.skipIf (s.getV x != kk))

/-- 5xy0 (R113). -/
def execSeReg (x y : Reg) (s : State) : StepResult := .next (s.skipIf (s.getV x == s.getV y))

/-- 9xy0 (R114). -/
def execSneReg (x y : Reg) (s : State) : StepResult := .next (s.skipIf (s.getV x != s.getV y))

/-- Ex9E (R115). -/
def execSkp (x : Reg) (s : State) : StepResult := .next (s.skipIf (s.keySelected x))

/-- ExA1 (R116). -/
def execSknp (x : Reg) (s : State) : StepResult := .next (s.skipIf (!s.keySelected x))

end Sys2Proof.Machine
end

