-- ==== Sys2Proof/Machine/TimerKey.lean ====
section
/-! DEFINITION. The timer instructions, the key wait, and the timer decrement unit (spec
45_timer_key.md R160 to R165). -/

namespace Sys2Proof.Machine

/-- Fx07 (R160). -/
def execLdVxDt (x : Reg) (s : State) : StepResult := .next (s.setV x s.dt)

/-- Fx15 (R161). -/
def execLdDtVx (x : Reg) (s : State) : StepResult := .next (s.setDt (s.getV x))

/-- Fx18 (R162). -/
def execLdStVx (x : Reg) (s : State) : StepResult := .next (s.setSt (s.getV x))

/-- Fx0A (R163): the lowest set key goes to V[x]; while no key is set `pc` goes back by 2, so that the
next Step fetches the same word. -/
def execLdVxK (x : Reg) (s : State) : StepResult :=
  match s.firstKey with
  | some k => .next (s.setV x (BitVec.ofNat 8 k.val))
  | none => .next (s.setPc (s.pc - 2))

/-- One tick of a counter: down by 1, floored at 0 (R30, R165). -/
def countDown (b : Byte) : Byte := if b = 0 then 0 else b - 1

/-- `TimerTick` (R165): both counters, and nothing else. -/
def timerTick (s : State) : State := (s.setDt (countDown s.dt)).setSt (countDown s.st)

end Sys2Proof.Machine
end

