-- ==== Sys2Proof/Machine/Step.lean ====
section
/-! DEFINITION. One `Step` (spec 30_encoding.md R70): fetch, advance, decode, execute. -/

namespace Sys2Proof.Machine

/-- `Step` (R70): the fetched word's instruction runs in the state in which `opcode` is latched and
`pc` advanced; a word that selects none raises `UnimplementedInstruction` (R81, R170). -/
def step (s : State) : Host.Outcome State Fault Refusal :=
  match decodeWord s.fetchWord with
  | some i => exec i s.fetched
  | none => raise (.unimplementedInstruction s.fetchWord)

/-- `s` with the instruction whose bits are `w` stored at `pc`, where `step` fetches. It stands for
the host's load (R194, log 13). -/
def State.withFetchWord (s : State) (nbits w : Nat) : State :=
  s.memWriteBytes s.pc.toNat (tableBytes nbits w)

end Sys2Proof.Machine
end

