-- ==== Sys2Proof/Machine/Font.lean ====
section
/-! DEFINITION. Fonts (spec 70_reset_and_hazards.md R193, decision D9): which font a state holds, the
premise of every claim about glyphs, and the spec's default table, which nothing in the machine uses. -/

namespace Sys2Proof.Machine

/-- The state holds `font` where `Reset` puts `FONT` (R193): `font[i]` at address i, i in 0 to 79. -/
def State.HoldsFont (s : State) (font : Vector Byte 80) : Prop :=
  ∀ i : Fin 80, s.memRead i.val = font[i]

/-- Glyphs 0 to 7 of the default font, five bytes each, top row first (R193). -/
def fontGlyphs0to7 : List Byte :=
  [0xF0, 0x90, 0x90, 0x90, 0xF0] ++ [0x20, 0x60, 0x20, 0x20, 0x70] ++
  [0xF0, 0x10, 0xF0, 0x80, 0xF0] ++ [0xF0, 0x10, 0xF0, 0x10, 0xF0] ++
  [0x90, 0x90, 0xF0, 0x10, 0x10] ++ [0xF0, 0x80, 0xF0, 0x10, 0xF0] ++
  [0xF0, 0x80, 0xF0, 0x90, 0xF0] ++ [0xF0, 0x10, 0x20, 0x40, 0x40]

/-- Glyphs 8 to F of the default font (R193). -/
def fontGlyphs8toF : List Byte :=
  [0xF0, 0x90, 0xF0, 0x90, 0xF0] ++ [0xF0, 0x90, 0xF0, 0x10, 0xF0] ++
  [0xF0, 0x90, 0xF0, 0x90, 0x90] ++ [0xE0, 0x90, 0xE0, 0x90, 0xE0] ++
  [0xF0, 0x80, 0x80, 0x80, 0xF0] ++ [0xE0, 0x90, 0x90, 0x90, 0xE0] ++
  [0xF0, 0x80, 0xF0, 0x80, 0xF0] ++ [0xF0, 0x80, 0xF0, 0x80, 0x80]

/-- The default value of the parameter `FONT` (R193): PRESUMED, the conventional CHIP-8 font, general
knowledge by the spec's own mark (log 1). -/
def defaultFont : Vector Byte 80 := ⟨⟨fontGlyphs0to7 ++ fontGlyphs8toF⟩, rfl⟩

end Sys2Proof.Machine
end

