-- ==== Sys2Proof/Machine/Operations.lean ====
section
/-! DEFINITION. The operations of the block (spec 00_scope.md R13 to R17, 60_exceptions.md R176 to
R178, 70_reset_and_hazards.md R190, R194 to R196): `Step`, `TimerTick`, `Reset`, the host's key write
and load, each one indivisible transition. A schedule of the host is a list of operations (log 12). -/

namespace Sys2Proof.Machine

/-- What the host can invoke (R13, R16). Its reads change nothing and need no operation. -/
inductive Operation where
  /-- one `Step` (R70) -/
  | step
  /-- one `TimerTick` (R165) -/
  | timerTick
  /-- `Reset` (R190) -/
  | reset
  /-- write one keypad cell (R16, R35) -/
  | keyWrite (k : Fin 16) (b : Bool)
  /-- load a program at 0x200 (R194) -/
  | load (image : List Byte)
  deriving DecidableEq, Repr

/-- A run as the host sees it: the state, the condition reported if the run has ended in one (it is
not stored in the state, R177), and whether a Step has been made since `Reset` (R194). -/
structure Session where
  state : State
  condition : Option Fault
  started : Bool
  deriving DecidableEq, Repr

/-- The session right after `Reset`, the only initial one (R191). -/
def sessionAfterReset (s : State) : Session :=
  { state := resetState s, condition := none, started := false }

/-- The load (R194): the image's bytes at 0x200 upward. -/
def loadProgram (s : State) (image : List Byte) : State := s.memWriteBytes 0x200 image

/-- `Step` for the host: a condition is recorded with the state it leaves, `opcode` latched and `pc`
advanced and nothing else (R176). -/
def performStep (h : Session) : Host.Outcome Session Fault Refusal :=
  match step h.state with
  | .next t => .next { state := t, condition := none, started := true }
  | .fault c => .next { state := h.state.fetched, condition := some c, started := true }
  | .refused r => .refused r

/-- The load for the host: before the first Step, at most 3584 bytes (R194, R196). -/
def performLoad (h : Session) (image : List Byte) : Host.Outcome Session Fault Refusal :=
  if h.started then .refused .loadAfterFirstStep
  else if image.length ≤ 3584 then .next { h with state := loadProgram h.state image }
  else .refused .imageTooLong

/-- An operation on a run that has reported no condition. -/
def performRunning (op : Operation) (h : Session) : Host.Outcome Session Fault Refusal :=
  match op with
  | .step => performStep h
  | .timerTick => .next { h with state := timerTick h.state }
  | .reset => .next (sessionAfterReset h.state)
  | .keyWrite k b => .next { h with state := h.state.setKey k b }
  | .load image => performLoad h image

/-- An operation on a run that ended in a condition: only `Reset` is defined (R177, R178). -/
def performStopped (op : Operation) (h : Session) : Host.Outcome Session Fault Refusal :=
  match op with
  | .reset => .next (sessionAfterReset h.state)
  | .step | .timerTick | .keyWrite _ _ | .load _ => .refused .operationAfterCondition

/-- Any operation on any session (R13, R16, R177). -/
def perform (op : Operation) (h : Session) : Host.Outcome Session Fault Refusal :=
  match h.condition with
  | none => performRunning op h
  | some _ => performStopped op h

/-- A schedule of the host, operation by operation, in any interleaving (R17, R166). -/
def performAll : List Operation → Session → Host.Outcome Session Fault Refusal
  | [], h => .next h
  | op :: ops, h =>
    match perform op h with
    | .next h' => performAll ops h'
    | .fault c => .fault c
    | .refused r => .refused r

end Sys2Proof.Machine
end

