-- ==== Sys2Proof/Safety.lean ====
section
/-! DEFINITION. The terms in which claims are made: the invariant of reachable states (spec
10_state.md R43), the named components of the state and the frame of an instruction (00_scope.md R19,
10_state.md R21, R24, R33, R39), and equality of two states up to the bits that are never used as an
address (10_state.md R25, R28). -/

namespace Sys2Proof.Machine

/-- The invariant of R43 that the types do not already give: `sp` is in 0 to 16; and, the model's
own, memory is in its canonical form. -/
abbrev State.Inv (s : State) : Prop := s.sp.toNat ≤ 16 ∧ Memory.wf s.mem = true

/-- A run of the host that reported no condition. -/
abbrev Session.Running (h : Session) : Prop := h.condition = none

/-- One named piece of the state (R39), and the model's counter of draws. -/
inductive Component where
  /-- V[r] -/
  | reg (r : Reg)
  /-- I -/
  | index
  /-- pc -/
  | pc
  /-- sp -/
  | sp
  /-- stack[k] -/
  | cell (k : Fin 16)
  /-- DT -/
  | delay
  /-- ST -/
  | sound
  /-- key[k] -/
  | key (k : Fin 16)
  /-- opcode -/
  | opcode
  /-- mem[a mod 4096] -/
  | mem (a : Nat)
  /-- the pixel at column c, row r -/
  | pixel (c : Fin 64) (r : Fin 32)
  /-- the model's counter of draws -/
  | draws
  deriving DecidableEq, Repr

/-- The value a component holds, as a number. -/
def State.component (s : State) : Component → Nat
  | .reg r => (s.getV r).toNat
  | .index => s.i.toNat
  | .pc => s.pc.toNat
  | .sp => s.sp.toNat
  | .cell k => s.stack[k].toNat
  | .delay => s.dt.toNat
  | .sound => s.st.toNat
  | .key k => s.key[k].toNat
  | .opcode => s.opcode.toNat
  | .mem a => (s.memRead a).toNat
  | .pixel c r => (pixel s.gfx c r).toNat
  | .draws => s.draws

/-- The frame: every component outside `changed` holds in `t` what it held in `s`. -/
def OnlyChanges (changed : Component → Prop) (s t : State) : Prop :=
  ∀ c, ¬ changed c → t.component c = s.component c

/-- The components at the addresses `a`, `a + 1`, ..., `a + n - 1`, each reduced mod 4096 (R51). -/
def inBytes (a n : Nat) (c : Component) : Prop :=
  ∃ k b, k < n ∧ b % 4096 = (a + k) % 4096 ∧ c = .mem b

/-- The pixels of an 8-pixel-wide sprite of n rows drawn at (xc, yc), wrapping on both axes (R153). -/
def inSprite (xc yc n : Nat) (c : Component) : Prop :=
  ∃ j k, j < 8 ∧ k < n ∧ c = .pixel (column (xc + j)) (line (yc + k))

/-- What each instruction's row names as written (R19, R21, R24, R33, R39): the columns "writes" of the
spec's tables, for an instruction run in the state `s`. -/
def namedByRow (i : Instr) (s : State) (c : Component) : Prop :=
  match i with
  | .cls => ∃ col row, c = .pixel col row
  | .ret => c = .pc ∨ c = .sp
  | .jp _ | .jpV0 _ => c = .pc
  | .call _ => c = .pc ∨ c = .sp ∨ ∃ k : Fin 16, k.val = s.sp.toNat ∧ c = .cell k
  | .seImm _ _ | .sneImm _ _ | .seReg _ _ | .sneReg _ _ | .skp _ | .sknp _ => c = .pc
  | .ldImm x _ | .addImm x _ | .ldReg x _ | .orReg x _ | .andReg x _ | .xorReg x _ => c = .reg x
  | .addReg x _ | .subReg x _ | .shr x _ | .subnReg x _ | .shl x _ => c = .reg x ∨ c = .reg 15
  | .ldI _ | .addI _ | .ldF _ => c = .index
  | .rnd x _ => c = .reg x ∨ c = .draws
  | .drw x y n => c = .reg 15 ∨ inSprite (s.getV x).toNat (s.getV y).toNat n c
  | .ldVxDt x => c = .reg x
  | .ldVxK x => if s.firstKey.isSome then c = .reg x else c = .pc
  | .ldDtVx _ => c = .delay
  | .ldStVx _ => c = .sound
  | .ldB _ => inBytes s.i.toNat 3 c
  | .ldMemV x => inBytes s.i.toNat (x.val + 1) c
  | .ldVMem x => ∃ r, r ≤ x ∧ c = .reg r

/-- The values of R42 for every component: what `Reset` leaves. `FONT` is the parameter `Config.font`
(R193, log 1). -/
structure ResetValues (s : State) : Prop where
  regs : ∀ r, s.getV r = 0
  index : s.i = 0
  pc : s.pc = 0x200
  sp : s.sp = 0
  stack : ∀ k : Fin 16, s.stack[k] = 0
  delay : s.dt = 0
  sound : s.st = 0
  keys : ∀ k : Fin 16, s.key[k] = false
  opcode : s.opcode = 0
  font : s.HoldsFont Config.font
  rest : ∀ a, 80 ≤ a → a < 4096 → s.memRead a = 0
  pixels : ∀ c r, pixel s.gfx c r = false

/-- Two states that agree in everything but bits 15:12 of `pc`, of `I` and of the stack cells: the
bits that are dropped whenever the value becomes an address (R25, R28, decision D2). -/
structure SameMod4096 (s t : State) : Prop where
  v : t.v = s.v
  index : t.i.toNat % 4096 = s.i.toNat % 4096
  pc : t.pc.toNat % 4096 = s.pc.toNat % 4096
  sp : t.sp = s.sp
  stack : ∀ k : Fin 16, t.stack[k].toNat % 4096 = s.stack[k].toNat % 4096
  dt : t.dt = s.dt
  st : t.st = s.st
  key : t.key = s.key
  opcode : t.opcode = s.opcode
  mem : t.mem = s.mem
  gfx : t.gfx = s.gfx
  draws : t.draws = s.draws

/-- Two outcomes of the same kind, with related next states or equal reasons. -/
def SameOutcome (related : State → State → Prop) : StepResult → StepResult → Prop
  | .next s, .next t => related s t
  | .fault c, .fault d => c = d
  | .refused r, .refused q => r = q
  | _, _ => False

end Sys2Proof.Machine
end

