-- ==== Sys2Proof/Certificates/Slice0/Obligations.lean ====
section
/-! DEFINITION. The statements for the provers. Each says in its docstring which rule of spec/ it
formalises. `exec i s` is the effect of an instruction in the state after the fetch, where `pc` is
already a + 2 (30_encoding.md R70); `StepRunsDecodedInstruction` carries these to a Step. -/

open Sys2Proof Sys2Proof.Machine

/-! ## Encoding -/

/-- Decoding the bytes of a well-formed instruction gives it back with every operand, and leaves the
bytes after them (30_encoding.md, sections 2, 4 and 6). -/
def Obligations.DecodeEncodeRoundTrip : Prop :=
  ∀ (i : Instr) (rest : List Byte), i.WellFormed → decode (encodeBytes i ++ rest) = .ok (i, rest)

/-- The decoder of R78 and the table of R77 agree: a word is matched by a row exactly when it decodes
to an instruction of that row. The masks are decision D4's (log 6). -/
def Obligations.DecoderAgreesWithOpcodeTable : Prop :=
  ∀ (w : Word) (row : OpcodeRow), row ∈ opcodeTable →
    (w &&& row.mask = row.value ↔ ∃ i, decodeWord w = some i ∧ mnemonic i = row.name)

/-- "The 34 (mask, match) pairs are pairwise disjoint, so at most one row matches a word" (R77). -/
def Obligations.OpcodeRowsPairwiseDisjoint : Prop :=
  opcodeTable.length = 34 ∧
  opcodeTable.Pairwise fun a b => ∀ w : Word, ¬ (w &&& a.mask = a.value ∧ w &&& b.mask = b.value)

/-- The words that select no instruction are those of the table of R81 (the set, under decision D4, log
6; the counts follow from it and are not stated). -/
def Obligations.UnimplementedWordsAreTheListed : Prop :=
  ∀ w : Word, decodeWord w = none ↔
    (opField w = 0x0 ∧ nField w ≠ 0x0 ∧ nField w ≠ 0xE) ∨
    (opField w = 0x8 ∧ (nField w = 0x8 ∨ nField w = 0x9 ∨ nField w = 0xA ∨ nField w = 0xB ∨
      nField w = 0xC ∨ nField w = 0xD ∨ nField w = 0xF)) ∨
    (opField w = 0xE ∧ nField w ≠ 0x1 ∧ nField w ≠ 0xE) ∨
    (opField w = 0xF ∧ kkField w ≠ 0x07 ∧ kkField w ≠ 0x0A ∧ kkField w ≠ 0x15 ∧ kkField w ≠ 0x18 ∧
      kkField w ≠ 0x1E ∧ kkField w ≠ 0x29 ∧ kkField w ≠ 0x33 ∧ kkField w ≠ 0x55 ∧ kkField w ≠ 0x65)

/-- What the decoder yields is well formed, and two words that differ only in bits the decoder does not
examine select the same instruction with the same operands: the alias encodings of R79, which rest on
decision D4 (log 6). -/
def Obligations.AliasWordsDecodeAsCanonical : Prop :=
  (∀ w i, decodeWord w = some i → i.WellFormed) ∧
  ∀ a b c d c' d' : Nibble,
    decodeWord (digits 0x0 a b 0x0) = decodeWord 0x00E0 ∧
    decodeWord (digits 0x0 a b 0xE) = decodeWord 0x00EE ∧
    decodeWord (digits 0x5 a c d) = decodeWord (digits 0x5 a c 0x0) ∧
    decodeWord (digits 0x9 a c d) = decodeWord (digits 0x9 a c 0x0) ∧
    decodeWord (digits 0xE a c' 0xE) = decodeWord (digits 0xE a 0x9 0xE) ∧
    decodeWord (digits 0xE a c' 0x1) = decodeWord (digits 0xE a 0xA 0x1) ∧
    (∀ s, (decodeWord (digits 0x8 a c 0x6)).map (exec · s) =
      (decodeWord (digits 0x8 a d' 0x6)).map (exec · s)) ∧
    (∀ s, (decodeWord (digits 0x8 a c 0xE)).map (exec · s) =
      (decodeWord (digits 0x8 a d' 0xE)).map (exec · s))

/-- Words written out bit by bit from the encodings of R77 and fields of R72, one of each family. -/
def Obligations.SampleWordsDecode : Prop :=
  [0b0001101010111100#16, 0b0011000101000010#16, 0b1000000111110100#16, 0b1010111111111111#16,
    0b1101111100010101#16, 0b1110001110100001#16, 0b1111010100001010#16].map decodeWord =
  [some (.jp 0xABC), some (.seImm 1 0x42), some (.addReg 1 15), some (.ldI 0xFFF),
    some (.drw 15 1 5), some (.sknp 3), some (.ldVxK 5)]

/-! ## The Step and its conditions -/

/-- A Step (R70): the word is the byte at `pc` and the byte after it, high byte first; `opcode` latches
it, `pc` advances by 2 mod 2^16, and then the decoded instruction's effect is applied to that state;
a word that decodes to nothing raises `UnimplementedInstruction`. -/
def Obligations.StepRunsDecodedInstruction : Prop :=
  ∀ (s : State) (w : Word), w = s.memRead s.pc.toNat ++ s.memRead (s.pc.toNat + 1) →
    (∀ i, decodeWord w = some i →
      i.WellFormed ∧ step s = exec i { s with opcode := w, pc := s.pc + 2 }) ∧
    (decodeWord w = none → step s = .fault (.unimplementedInstruction w))

/-- The state at a condition (60_exceptions.md, section 4): `opcode` is the fetched word, `pc` is
a + 2, and every other component is unchanged. Decision D5 of the spec (log 7). -/
def Obligations.ConditionsLeavePreciseState : Prop :=
  ∀ (h : Session) (c : Fault), h.Running → step h.state = .fault c →
    ∃ h', perform .step h = .next h' ∧ h'.condition = some c ∧
      h'.state = { h.state with
        opcode := h.state.memRead h.state.pc.toNat ++ h.state.memRead (h.state.pc.toNat + 1)
        pc := h.state.pc + 2 }

/-- In every state that meets the invariant, a Step reports a condition exactly for the three causes of
60_exceptions.md section 1, at most one of them, and it refuses nothing. The stack policy is
decision D1 (log 3). -/
def Obligations.StepConditionsHaveTheirCauses : Prop :=
  ∀ s : State, s.Inv →
    (∀ c, step s = .fault c ↔
      (c = .unimplementedInstruction s.fetchWord ∧ decodeWord s.fetchWord = none) ∨
      (c = .stackOverflow ∧ (∃ nnn, decodeWord s.fetchWord = some (.call nnn)) ∧ s.sp = 16) ∨
      (c = .stackUnderflow ∧ decodeWord s.fetchWord = some .ret ∧ s.sp = 0)) ∧
    ∀ r, step s ≠ .refused r

/-- After a condition only `Reset` has a meaning (60_exceptions.md sections 4; decision D5, log 7): every
other operation is refused, and `Reset` starts the run again. -/
def Obligations.OnlyResetAfterCondition : Prop :=
  ∀ (h : Session) (op : Operation), ¬ h.Running →
    (op ≠ .reset → perform op h = .refused .operationAfterCondition) ∧
    (op = .reset → ∃ h', perform op h = .next h' ∧ h'.Running ∧ h'.started = false ∧
      ResetValues h'.state)

/-! ## Invariants and rules of the whole machine -/

/-- The state after `Reset` meets the invariant (10_state.md section 8). -/
def Obligations.ResetMeetsInvariant : Prop := State.reset.Inv

/-- Every Step that goes on keeps `sp` in 0 to 16 and memory canonical (10_state.md R29, R43). -/
def Obligations.StepKeepsInvariant : Prop :=
  ∀ s t : State, s.Inv → step s = .next t → t.Inv

/-- Whatever the host does after a `Reset`, in whatever order (Steps, ticks, key writes, loads, Resets),
the state meets the invariant, at a condition too (10_state.md R43). -/
def Obligations.ReachableSessionsMeetInvariant : Prop :=
  ∀ (s : State) (ops : List Operation) (h : Session),
    performAll ops (sessionAfterReset s) = .next h → h.state.Inv

/-- The closed-world reading (00_scope.md R19, decision D10, log 10): an instruction leaves unchanged
every component its row does not name as written, every byte of memory and every pixel included. -/
def Obligations.InstructionsChangeOnlyWhatTheirRowsName : Prop :=
  ∀ (i : Instr) (s t : State), exec i s = .next t → OnlyChanges (namedByRow i s) s t

/-- "bits 15:12 of `pc` never influence any other piece of state except the copies of `pc` in `stack`"
(R25), and so for I (R28): two states that differ only in bits 15:12 of pc, I and the stack cells
step to states that differ only there, or report the same condition. Decision D2 (log 5). -/
def Obligations.HighAddressBitsAreUnobservable : Prop :=
  ∀ s t : State, SameMod4096 s t → SameOutcome SameMod4096 (step s) (step t)

/-- No instruction reads `opcode` (R32): its value changes nothing but itself. -/
def Obligations.OpcodeRegisterIsUnobservable : Prop :=
  ∀ (i : Instr) (s : State) (w : Word),
    SameOutcome (fun t u => u = t.setOpcode w) (exec i s) (exec i (s.setOpcode w))

/-- Every instruction but CALL and RET completes in every state: nothing else can fault (R173). -/
def Obligations.EveryOtherInstructionCompletes : Prop :=
  ∀ (i : Instr) (s : State), i ≠ .ret → (∀ nnn, i ≠ .call nnn) → ∃ t, exec i s = .next t

/-! ## Control flow -/

/-- JP nnn (R100): the encoding, the target written and nothing else, and the fixed point of a jump to
its own address. -/
def Obligations.JumpLoadsAddress : Prop :=
  (∀ w, opField w = 0x1 → decodeWord w = some (.jp (nnnField w))) ∧
  (∀ nnn s, ∃ t, exec (.jp nnn) s = .next t ∧ t.pc.toNat = nnn.toNat ∧
    OnlyChanges (· = .pc) s t) ∧
  ∀ (s : State) (nnn : Addr), s.pc.toNat = nnn.toNat → decodeWord s.fetchWord = some (.jp nnn) →
    step s = .next (s.setOpcode s.fetchWord)

/-- CALL nnn (40_flow.md): with a free cell the advanced pc is pushed at stack[sp] and pc gets nnn; with
none `StackOverflow` is raised. The policy is decision D1, the cell width D3 (logs 3, 15). -/
def Obligations.CallPushesReturnAddress : Prop :=
  (∀ w, opField w = 0x2 → decodeWord w = some (.call (nnnField w))) ∧
  (∀ (nnn : Addr) (s : State) (k : Fin 16), s.sp.toNat = k.val →
    ∃ t, exec (.call nnn) s = .next t ∧ t.pc.toNat = nnn.toNat ∧ t.stack[k] = s.pc ∧
      t.sp.toNat = k.val + 1 ∧ OnlyChanges (fun c => c = .pc ∨ c = .sp ∨ c = .cell k) s t) ∧
  ∀ (nnn : Addr) (s : State), 16 ≤ s.sp.toNat → exec (.call nnn) s = .fault .stackOverflow

/-- RET (40_flow.md): with a live cell sp is decremented and pc gets stack[sp], which keeps its value;
with none `StackUnderflow` is raised (decision D1, log 3). With sp above 16, which no run reaches, the
model stops by a name of its own (its choice, log 4). The aliases are decision D4's (log 6). -/
def Obligations.RetPopsReturnAddress : Prop :=
  (∀ w, opField w = 0x0 → nField w = 0xE → decodeWord w = some .ret) ∧
  (∀ (s : State) (k : Fin 16), s.sp.toNat = k.val + 1 →
    ∃ t, exec .ret s = .next t ∧ t.pc = s.stack[k] ∧ t.sp.toNat = k.val ∧
      OnlyChanges (fun c => c = .pc ∨ c = .sp) s t) ∧
  (∀ s : State, s.sp.toNat = 0 → exec .ret s = .fault .stackUnderflow) ∧
  ∀ s : State, 16 < s.sp.toNat → exec .ret s = .fault .stackPointerOutOfRange

/-- A RET in any state that still has the stack a CALL left goes back to the instruction after the CALL
and frees its cell (40_flow.md, CALL and RET; the push and pop pair of 90_conflicts.md C1). -/
def Obligations.RetUndoesCall : Prop :=
  ∀ (nnn : Addr) (s t t' : State), exec (.call nnn) s = .next t → t'.sp = t.sp →
    t'.stack = t.stack → ∃ u, exec .ret t' = .next u ∧ u.pc = s.pc ∧ u.sp = s.sp

/-- JP V0, nnn (40_flow.md): the 16-bit sum, never reduced mod 4096 (decision D2, log 5). -/
def Obligations.JumpV0AddsOffset : Prop :=
  (∀ w, opField w = 0xB → decodeWord w = some (.jpV0 (nnnField w))) ∧
  ∀ nnn s, ∃ t, exec (.jpV0 nnn) s = .next t ∧ t.pc.toNat = nnn.toNat + (s.getV 0).toNat ∧
    OnlyChanges (· = .pc) s t

/-! ## Skips -/

/-- SE Vx, kk and SNE Vx, kk (R111, R112) by the skip of R110. -/
def Obligations.SkipsOnImmediate : Prop :=
  (∀ w, opField w = 0x3 → decodeWord w = some (.seImm (xField w) (kkField w))) ∧
  (∀ w, opField w = 0x4 → decodeWord w = some (.sneImm (xField w) (kkField w))) ∧
  ∀ x kk s,
    (∃ t, exec (.seImm x kk) s = .next t ∧ OnlyChanges (· = .pc) s t ∧
      t.pc.toNat = if s.getV x = kk then (s.pc.toNat + 2) % 65536 else s.pc.toNat) ∧
    ∃ t, exec (.sneImm x kk) s = .next t ∧ OnlyChanges (· = .pc) s t ∧
      t.pc.toNat = if s.getV x = kk then s.pc.toNat else (s.pc.toNat + 2) % 65536

/-- SE Vx, Vy and SNE Vx, Vy (41_skip.md); bits 3:0 are not examined (decision D4, log 6). -/
def Obligations.SkipsOnRegisters : Prop :=
  (∀ w, opField w = 0x5 → decodeWord w = some (.seReg (xField w) (yField w))) ∧
  (∀ w, opField w = 0x9 → decodeWord w = some (.sneReg (xField w) (yField w))) ∧
  ∀ x y s,
    (∃ t, exec (.seReg x y) s = .next t ∧ OnlyChanges (· = .pc) s t ∧
      t.pc.toNat = if s.getV x = s.getV y then (s.pc.toNat + 2) % 65536 else s.pc.toNat) ∧
    ∃ t, exec (.sneReg x y) s = .next t ∧ OnlyChanges (· = .pc) s t ∧
      t.pc.toNat = if s.getV x = s.getV y then s.pc.toNat else (s.pc.toNat + 2) % 65536

/-- SKP Vx and SKNP Vx (41_skip.md): the key tested is V[x] mod 16 (decision D6, log 9); bits 7:4 are
not examined (decision D4, log 6). -/
def Obligations.SkipsOnKeys : Prop :=
  (∀ w, opField w = 0xE → nField w = 0xE → decodeWord w = some (.skp (xField w))) ∧
  (∀ w, opField w = 0xE → nField w = 0x1 → decodeWord w = some (.sknp (xField w))) ∧
  ∀ (x : Reg) (s : State) (k : Fin 16), k.val = (s.getV x).toNat % 16 →
    (∃ t, exec (.skp x) s = .next t ∧ OnlyChanges (· = .pc) s t ∧
      t.pc.toNat = if s.key[k] = true then (s.pc.toNat + 2) % 65536 else s.pc.toNat) ∧
    ∃ t, exec (.sknp x) s = .next t ∧ OnlyChanges (· = .pc) s t ∧
      t.pc.toNat = if s.key[k] = true then s.pc.toNat else (s.pc.toNat + 2) % 65536

/-! ## Loads and arithmetic -/

/-- LD Vx, kk and LD Vx, Vy (R123, R125). -/
def Obligations.LoadsWriteOneRegister : Prop :=
  (∀ w, opField w = 0x6 → decodeWord w = some (.ldImm (xField w) (kkField w))) ∧
  (∀ w, opField w = 0x8 → nField w = 0x0 → decodeWord w = some (.ldReg (xField w) (yField w))) ∧
  (∀ x kk s, ∃ t, exec (.ldImm x kk) s = .next t ∧ t.getV x = kk ∧ OnlyChanges (· = .reg x) s t) ∧
  ∀ x y s, ∃ t, exec (.ldReg x y) s = .next t ∧ t.getV x = s.getV y ∧ OnlyChanges (· = .reg x) s t

/-- ADD Vx, kk (R124): mod 256, and no flag unless x is VF itself. -/
def Obligations.AddImmediateHasNoFlag : Prop :=
  (∀ w, opField w = 0x7 → decodeWord w = some (.addImm (xField w) (kkField w))) ∧
  ∀ x kk s, ∃ t, exec (.addImm x kk) s = .next t ∧
    (t.getV x).toNat = ((s.getV x).toNat + kk.toNat) % 256 ∧ OnlyChanges (· = .reg x) s t

/-- OR, AND and XOR (42_alu.md): bit by bit. That VF is not written is the closed-world reading of
00_scope.md, decision D10 (log 10). -/
def Obligations.BitwiseOperationsHaveNoFlag : Prop :=
  (∀ w, opField w = 0x8 → nField w = 0x1 → decodeWord w = some (.orReg (xField w) (yField w))) ∧
  (∀ w, opField w = 0x8 → nField w = 0x2 → decodeWord w = some (.andReg (xField w) (yField w))) ∧
  (∀ w, opField w = 0x8 → nField w = 0x3 → decodeWord w = some (.xorReg (xField w) (yField w))) ∧
  ∀ x y s,
    (∃ t, exec (.orReg x y) s = .next t ∧ OnlyChanges (· = .reg x) s t ∧
      ∀ b, (t.getV x).getLsbD b = ((s.getV x).getLsbD b || (s.getV y).getLsbD b)) ∧
    (∃ t, exec (.andReg x y) s = .next t ∧ OnlyChanges (· = .reg x) s t ∧
      ∀ b, (t.getV x).getLsbD b = ((s.getV x).getLsbD b && (s.getV y).getLsbD b)) ∧
    ∃ t, exec (.xorReg x y) s = .next t ∧ OnlyChanges (· = .reg x) s t ∧
      ∀ b, (t.getV x).getLsbD b = ((s.getV x).getLsbD b ^^ (s.getV y).getLsbD b)

/-- ADD Vx, Vy (R129): the sum mod 256 in V[x], unless x is VF, and the carry in VF, always, both from
the values before the instruction. -/
def Obligations.AddSetsCarry : Prop :=
  (∀ w, opField w = 0x8 → nField w = 0x4 → decodeWord w = some (.addReg (xField w) (yField w))) ∧
  ∀ (x y : Reg) (s : State), ∃ t, exec (.addReg x y) s = .next t ∧
    (x ≠ 15 → (t.getV x).toNat = ((s.getV x).toNat + (s.getV y).toNat) % 256) ∧
    ((t.getV 15).toNat = if (s.getV x).toNat + (s.getV y).toNat > 255 then 1 else 0) ∧
    OnlyChanges (fun c => c = .reg x ∨ c = .reg 15) s t

/-- SUB Vx, Vy (R130): the difference mod 256 in V[x], unless x is VF, and in VF, always, whether V[x]
was strictly greater than V[y]. -/
def Obligations.SubtractSetsNoBorrow : Prop :=
  (∀ w, opField w = 0x8 → nField w = 0x5 → decodeWord w = some (.subReg (xField w) (yField w))) ∧
  ∀ (x y : Reg) (s : State), ∃ t, exec (.subReg x y) s = .next t ∧
    (x ≠ 15 → ((t.getV x).toNat : Int) = ((s.getV x).toNat - (s.getV y).toNat : Int) % 256) ∧
    ((t.getV 15).toNat = if (s.getV x).toNat > (s.getV y).toNat then 1 else 0) ∧
    OnlyChanges (fun c => c = .reg x ∨ c = .reg 15) s t

/-- SUBN Vx, Vy (R132): V[y] - V[x] mod 256 in V[x], unless x is VF, and in VF, always, whether V[y] was
strictly greater than V[x]. -/
def Obligations.ReverseSubtractSetsNoBorrow : Prop :=
  (∀ w, opField w = 0x8 → nField w = 0x7 → decodeWord w = some (.subnReg (xField w) (yField w))) ∧
  ∀ (x y : Reg) (s : State), ∃ t, exec (.subnReg x y) s = .next t ∧
    (x ≠ 15 → ((t.getV x).toNat : Int) = ((s.getV y).toNat - (s.getV x).toNat : Int) % 256) ∧
    ((t.getV 15).toNat = if (s.getV y).toNat > (s.getV x).toNat then 1 else 0) ∧
    OnlyChanges (fun c => c = .reg x ∨ c = .reg 15) s t

/-- SHR Vx (42_alu.md): V[x] div 2 in V[x], unless x is VF, and in VF, always, the old bit 0. That V[y]
plays no part is the closed-world reading of 00_scope.md, decision D10 (log 10). -/
def Obligations.ShiftRightSetsLowBit : Prop :=
  (∀ w, opField w = 0x8 → nField w = 0x6 → decodeWord w = some (.shr (xField w) (yField w))) ∧
  ∀ (x y : Reg) (s : State), ∃ t, exec (.shr x y) s = .next t ∧
    (x ≠ 15 → (t.getV x).toNat = (s.getV x).toNat / 2) ∧
    (t.getV 15).toNat = (s.getV x).toNat % 2 ∧
    OnlyChanges (fun c => c = .reg x ∨ c = .reg 15) s t

/-- SHL Vx (42_alu.md): V[x] * 2 mod 256 in V[x], unless x is VF, and in VF, always, the old bit 7. That
V[y] plays no part is the closed-world reading of 00_scope.md, decision D10 (log 10). -/
def Obligations.ShiftLeftSetsHighBit : Prop :=
  (∀ w, opField w = 0x8 → nField w = 0xE → decodeWord w = some (.shl (xField w) (yField w))) ∧
  ∀ (x y : Reg) (s : State), ∃ t, exec (.shl x y) s = .next t ∧
    (x ≠ 15 → (t.getV x).toNat = (s.getV x).toNat * 2 % 256) ∧
    (t.getV 15).toNat = (s.getV x).toNat / 128 ∧
    OnlyChanges (fun c => c = .reg x ∨ c = .reg 15) s t

/-- RND Vx, kk (42_alu.md; decision D8): V[x] is `kk` and a free value, whatever that is, so every bit
that is 0 in `kk` is 0; the draw is used up. The sequence of draws is the model's form of the spec's
`draw8()` (its choice, log 2). -/
def Obligations.RandomByteIsMasked : Prop :=
  (∀ w, opField w = 0xC → decodeWord w = some (.rnd (xField w) (kkField w))) ∧
  ∀ x kk s, ∃ t, exec (.rnd x kk) s = .next t ∧ t.getV x = kk &&& Config.draw8 s.draws ∧
    (∀ b, kk.getLsbD b = false → (t.getV x).getLsbD b = false) ∧ t.draws = s.draws + 1 ∧
    OnlyChanges (fun c => c = .reg x ∨ c = .draws) s t

/-! ## Index register and memory -/

/-- LD I, nnn (R140): bits 15:12 of I become 0. -/
def Obligations.LoadIndexZeroExtends : Prop :=
  (∀ w, opField w = 0xA → decodeWord w = some (.ldI (nnnField w))) ∧
  ∀ nnn s, ∃ t, exec (.ldI nnn) s = .next t ∧ t.i.toNat = nnn.toNat ∧ OnlyChanges (· = .index) s t

/-- ADD I, Vx (43_index_memory.md): mod 2^16, and no flag (decisions D2 and D10, logs 5, 10). -/
def Obligations.AddIndexWraps : Prop :=
  (∀ w, opField w = 0xF → kkField w = 0x1E → decodeWord w = some (.addI (xField w))) ∧
  ∀ x s, ∃ t, exec (.addI x) s = .next t ∧ t.i.toNat = (s.i.toNat + (s.getV x).toNat) % 65536 ∧
    OnlyChanges (· = .index) s t

/-- LD F, Vx (43_index_memory.md): the whole byte times 5, at most 1275 (decision D10, log 10). -/
def Obligations.GlyphAddressIsFiveTimes : Prop :=
  (∀ w, opField w = 0xF → kkField w = 0x29 → decodeWord w = some (.ldF (xField w))) ∧
  ∀ x s, ∃ t, exec (.ldF x) s = .next t ∧ t.i.toNat = (s.getV x).toNat * 5 ∧
    OnlyChanges (· = .index) s t

/-- LD B, Vx (R143): hundreds, tens and ones of V[x] at I, I + 1, I + 2, each address reduced mod 4096;
every other byte and everything else unchanged. -/
def Obligations.DecimalDigitsAreStored : Prop :=
  (∀ w, opField w = 0xF → kkField w = 0x33 → decodeWord w = some (.ldB (xField w))) ∧
  ∀ x s, ∃ t, exec (.ldB x) s = .next t ∧
    (t.memRead s.i.toNat).toNat = (s.getV x).toNat / 100 ∧
    (t.memRead (s.i.toNat + 1)).toNat = (s.getV x).toNat / 10 % 10 ∧
    (t.memRead (s.i.toNat + 2)).toNat = (s.getV x).toNat % 10 ∧
    OnlyChanges (inBytes s.i.toNat 3) s t

/-- LD [I], Vx (43_index_memory.md): V[r] at I + r for every r up to x inclusive, each address reduced
mod 4096; I and every other byte unchanged (decision D10, log 10). -/
def Obligations.RegistersAreStored : Prop :=
  (∀ w, opField w = 0xF → kkField w = 0x55 → decodeWord w = some (.ldMemV (xField w))) ∧
  ∀ x s, ∃ t, exec (.ldMemV x) s = .next t ∧
    (∀ r, r ≤ x → t.memRead (s.i.toNat + r.val) = s.getV r) ∧
    OnlyChanges (inBytes s.i.toNat (x.val + 1)) s t

/-- LD Vx, [I] (43_index_memory.md): V[r] from I + r for every r up to x inclusive, each address reduced
mod 4096; I, memory and the other registers unchanged (decision D10, log 10). -/
def Obligations.RegistersAreLoaded : Prop :=
  (∀ w, opField w = 0xF → kkField w = 0x65 → decodeWord w = some (.ldVMem (xField w))) ∧
  ∀ x s, ∃ t, exec (.ldVMem x) s = .next t ∧
    (∀ r, r ≤ x → t.getV r = s.memRead (s.i.toNat + r.val)) ∧
    OnlyChanges (fun c => ∃ r, r ≤ x ∧ c = .reg r) s t

/-- A stored instruction is seen by the next fetch of its two bytes, at any pc that addresses them
(20_memory.md section 6): here the word LD [I], Vx leaves at I + k, I + k + 1. -/
def Obligations.StoredWordIsFetchedNext : Prop :=
  ∀ (x k l : Reg) (s : State), l.val = k.val + 1 → l ≤ x →
    ∃ t, exec (.ldMemV x) s = .next t ∧
      ∀ p : Word, p.toNat % 4096 = (s.i.toNat + k.val) % 4096 →
        (t.setPc p).fetchWord = s.getV k ++ s.getV l

/-! ## Display -/

/-- CLS (44_display.md): all 2048 cells 0 and VF not written; every word 0x0??0 is CLS (decision D4, log
6). -/
def Obligations.ClearTurnsEveryPixelOff : Prop :=
  (∀ w, opField w = 0x0 → nField w = 0x0 → decodeWord w = some .cls) ∧
  ∀ s, ∃ t, exec .cls s = .next t ∧ (∀ c r, pixel t.gfx c r = false) ∧
    OnlyChanges (fun c => ∃ col row, c = .pixel col row) s t

/-- `draw_byte(xc, yc, b)` (R151): pixel j of the row is bit 7 - j of `b`, exclusive-ored into column
(xc + j) mod 64 of row yc mod 32; no other pixel changes; the answer says whether a set bit met a set
pixel. -/
def Obligations.DrawByteXorsOneRow : Prop :=
  ∀ (g : Display) (xc yc : Nat) (b : Byte),
    (∀ j, j < 8 → pixel (drawByte g xc yc b).1 (column (xc + j)) (line yc) =
      (pixel g (column (xc + j)) (line yc) ^^ b.getLsbD (7 - j))) ∧
    (∀ c r, (∀ j, j < 8 → ¬ (c = column (xc + j) ∧ r = line yc)) →
      pixel (drawByte g xc yc b).1 c r = pixel g c r) ∧
    ((drawByte g xc yc b).2 = true ↔
      ∃ j, j < 8 ∧ b.getLsbD (7 - j) = true ∧ pixel g (column (xc + j)) (line yc) = true)

/-- DRW Vx, Vy, n (R153): bit 7 - j of the byte at I + k is exclusive-ored into the pixel at column
(V[x] + j) mod 64, row (V[y] + k) mod 32, for the n rows; VF says whether a set bit met a pixel that
was set before; nothing else changes, I among it. Coordinates are those before VF is written. -/
def Obligations.DrawSpriteXorsItsPixels : Prop :=
  (∀ w, opField w = 0xD → decodeWord w = some (.drw (xField w) (yField w) (nField w).toNat)) ∧
  ∀ (x y : Reg) (n : Nat) (s : State), Instr.WellFormed (.drw x y n) →
    ∃ t, exec (.drw x y n) s = .next t ∧
      (∀ j k, j < 8 → k < n →
        pixel t.gfx (column ((s.getV x).toNat + j)) (line ((s.getV y).toNat + k)) =
          (pixel s.gfx (column ((s.getV x).toNat + j)) (line ((s.getV y).toNat + k)) ^^
            (s.memRead (s.i.toNat + k)).getLsbD (7 - j))) ∧
      ((∃ j k, j < 8 ∧ k < n ∧ (s.memRead (s.i.toNat + k)).getLsbD (7 - j) = true ∧
          pixel s.gfx (column ((s.getV x).toNat + j)) (line ((s.getV y).toNat + k)) = true) →
        t.getV 15 = 1) ∧
      ((∀ j k, j < 8 → k < n → (s.memRead (s.i.toNat + k)).getLsbD (7 - j) = true →
          pixel s.gfx (column ((s.getV x).toNat + j)) (line ((s.getV y).toNat + k)) = false) →
        t.getV 15 = 0) ∧
      OnlyChanges (fun c => c = .reg 15 ∨ inSprite (s.getV x).toNat (s.getV y).toNat n c) s t

/-- Drawing the same sprite twice restores the display, and the second draw's VF is 1 exactly when the
first turned some pixel on (44_display.md, DRW, corner case g; 95_test_vectors.md S4). The
coordinates are not VF, which the first draw writes. -/
def Obligations.DrawTwiceRestoresDisplay : Prop :=
  ∀ (x y : Reg) (n : Nat) (s : State), Instr.WellFormed (.drw x y n) → x ≠ 15 → y ≠ 15 →
    ∃ t u, exec (.drw x y n) s = .next t ∧ exec (.drw x y n) t = .next u ∧ u.gfx = s.gfx ∧
      (u.getV 15).toNat ≤ 1 ∧
      (u.getV 15 = 1 ↔ ∃ c r, pixel s.gfx c r = false ∧ pixel t.gfx c r = true)

/-- The glyph of digit d in any font a state holds (70_reset_and_hazards.md section 1; decisions D9 and
D10, logs 1, 10): `LD F` with V[x] = d sets I to the address of `FONT[5 * d]`, the first of five bytes. -/
def Obligations.GlyphAddressHoldsGlyph : Prop :=
  ∀ (font : Vector Byte 80) (x : Reg) (s : State), s.HoldsFont font →
    ∀ (d : Nat) (hd : d < 16), (s.getV x).toNat = d →
      ∃ t, exec (.ldF x) s = .next t ∧
        ∀ (k : Nat) (hk : k < 5), t.memRead (t.i.toNat + k) = font[5 * d + k]

/-- What `LD F` and `DRW` light, for any font a state holds (70_reset_and_hazards.md section 1; decisions
D9 and D10, logs 1, 10): on a clear display the picture of the digit, row k the byte `FONT[5 * d + k]`,
bit 7 leftmost, wrapped on both axes, and no collision. -/
def Obligations.DigitIsDrawnFromFont : Prop :=
  ∀ (font : Vector Byte 80) (f x y : Reg) (s : State), s.HoldsFont font →
    (∀ c r, pixel s.gfx c r = false) →
    ∀ (d : Nat) (hd : d < 16), (s.getV f).toNat = d →
      ∃ t u, exec (.ldF f) s = .next t ∧ exec (.drw x y 5) t = .next u ∧
        (∀ (j k : Nat) (hk : k < 5), j < 8 →
          pixel u.gfx (column ((s.getV x).toNat + j)) (line ((s.getV y).toNat + k)) =
            font[5 * d + k].getLsbD (7 - j)) ∧
        u.getV 15 = 0 ∧
        OnlyChanges (fun c => c = .index ∨ c = .reg 15 ∨
          inSprite (s.getV x).toNat (s.getV y).toNat 5 c) s u

/-! ## Timers and keys -/

/-- LD Vx, DT; LD DT, Vx; LD ST, Vx (R160, R161, R162). -/
def Obligations.TimerInstructionsMoveBytes : Prop :=
  (∀ w, opField w = 0xF → kkField w = 0x07 → decodeWord w = some (.ldVxDt (xField w))) ∧
  (∀ w, opField w = 0xF → kkField w = 0x15 → decodeWord w = some (.ldDtVx (xField w))) ∧
  (∀ w, opField w = 0xF → kkField w = 0x18 → decodeWord w = some (.ldStVx (xField w))) ∧
  ∀ x s,
    (∃ t, exec (.ldVxDt x) s = .next t ∧ t.getV x = s.dt ∧ OnlyChanges (· = .reg x) s t) ∧
    (∃ t, exec (.ldDtVx x) s = .next t ∧ t.dt = s.getV x ∧ OnlyChanges (· = .delay) s t) ∧
    ∃ t, exec (.ldStVx x) s = .next t ∧ t.st = s.getV x ∧ OnlyChanges (· = .sound) s t

/-- LD Vx, K (45_timer_key.md): the lowest set key goes to V[x]; with none set pc goes back by 2 mod
2^16 and V[x] is not written. Level-sensitive, decision D18 (log 14). -/
def Obligations.KeyWaitCapturesLowestKey : Prop :=
  (∀ w, opField w = 0xF → kkField w = 0x0A → decodeWord w = some (.ldVxK (xField w))) ∧
  (∀ (x : Reg) (s : State) (k : Fin 16), s.key[k] = true →
    (∀ j : Fin 16, j < k → s.key[j] = false) →
    ∃ t, exec (.ldVxK x) s = .next t ∧ (t.getV x).toNat = k.val ∧ OnlyChanges (· = .reg x) s t) ∧
  ∀ (x : Reg) (s : State), (∀ k : Fin 16, s.key[k] = false) →
    ∃ t, exec (.ldVxK x) s = .next t ∧ (t.pc.toNat + 2) % 65536 = s.pc.toNat ∧
      OnlyChanges (· = .pc) s t

/-- "While no key is set each Step of the instruction leaves the whole state unchanged except that
`opcode` is latched with the same word" (45_timer_key.md, LD Vx, K, corner case a). -/
def Obligations.KeyWaitSpinsUnchanged : Prop :=
  ∀ (x : Reg) (s : State), decodeWord s.fetchWord = some (.ldVxK x) →
    (∀ k : Fin 16, s.key[k] = false) → step s = .next (s.setOpcode s.fetchWord)

/-- `TimerTick` (R165): each counter down by 1, floored at 0, and nothing else; it raises nothing. -/
def Obligations.TimerTickCountsDown : Prop :=
  ∀ h : Session, h.Running →
    ∃ h', perform .timerTick h = .next h' ∧ h'.Running ∧
      h'.state.dt.toNat = h.state.dt.toNat - 1 ∧ h'.state.st.toNat = h.state.st.toNat - 1 ∧
      OnlyChanges (fun c => c = .delay ∨ c = .sound) h.state h'.state

/-- A tick and an instruction that names no timer can change places (45_timer_key.md section 3): the
interleaving of ticks matters to Fx07, Fx15 and Fx18 only. -/
def Obligations.TicksCommuteWithOtherInstructions : Prop :=
  ∀ (i : Instr) (s : State), (∀ x, i ≠ .ldVxDt x) → (∀ x, i ≠ .ldDtVx x) → (∀ x, i ≠ .ldStVx x) →
    SameOutcome (fun t u => u = timerTick t) (exec i s) (exec i (timerTick s))

/-! ## The host's operations -/

/-- `Reset` (10_state.md section 8; decision D11, log 8): whatever the session, every component has its
reset value, the font bytes those of the parameter FONT (log 1), and the run starts again;
`State.reset` is such a state. -/
def Obligations.ResetLeavesInitialValues : Prop :=
  ResetValues State.reset ∧
  ∀ h : Session, ∃ h', perform .reset h = .next h' ∧ ResetValues h'.state ∧ h'.Running ∧
    h'.started = false

/-- The load (70_reset_and_hazards.md section 2; decision D15, log 13): the image's bytes at 0x200
upward and nothing else; refused after the first Step, and when longer than 3584 bytes. -/
def Obligations.LoadPlacesProgram : Prop :=
  ∀ (h : Session) (image : List Byte), h.Running →
    (h.started = false → image.length ≤ 3584 →
      ∃ h', perform (.load image) h = .next h' ∧ h'.Running ∧
        (∀ k (hk : k < image.length), h'.state.memRead (0x200 + k) = image[k]) ∧
        OnlyChanges (inBytes 0x200 image.length) h.state h'.state) ∧
    (h.started = false → 3584 < image.length →
      perform (.load image) h = .refused .imageTooLong) ∧
    (h.started = true → perform (.load image) h = .refused .loadAfterFirstStep)

/-- The keypad is written by the host only (10_state.md section 5): no Step changes a key cell, and a
key write changes that cell and nothing else. -/
def Obligations.KeypadIsTheHosts : Prop :=
  (∀ s t, step s = .next t → ∀ k : Fin 16, t.key[k] = s.key[k]) ∧
  ∀ (h : Session) (k : Fin 16) (b : Bool), h.Running →
    ∃ h', perform (.keyWrite k b) h = .next h' ∧ h'.Running ∧ h'.state.key[k] = b ∧
      OnlyChanges (· = .key k) h.state h'.state
end

