-- ==== Sys2Proof/Laws/Decode.lean ====
section
/-! SUPPORT. What the decoder's fields read from the encoder's layouts (spec 30_encoding.md R72, R73),
and the bytes of a word. -/

namespace Sys2Proof

theorem digits_getLsbD (a b c d : Nibble) (k : Nat) :
    (digits a b c d).getLsbD k =
      if k < 4 then d.getLsbD k else if k < 8 then c.getLsbD (k - 4)
      else if k < 12 then b.getLsbD (k - 8) else a.getLsbD (k - 12) := by
  unfold digits
  change BitVec.getLsbD (w := 4 + 4 + 4 + 4) _ k = _
  simp only [BitVec.getLsbD_append, Nat.sub_sub]
  split_ifs <;> first | rfl | omega

theorem digitsByte_getLsbD (a b : Nibble) (kk : Byte) (k : Nat) :
    (digitsByte a b kk).getLsbD k =
      if k < 8 then kk.getLsbD k else if k < 12 then b.getLsbD (k - 8)
      else a.getLsbD (k - 12) := by
  unfold digitsByte
  change BitVec.getLsbD (w := 4 + 4 + 8) _ k = _
  simp only [BitVec.getLsbD_append, Nat.sub_sub]
  split_ifs <;> first | rfl | omega

theorem digitAddr_getLsbD (a : Nibble) (nnn : Addr) (k : Nat) :
    (digitAddr a nnn).getLsbD k = if k < 12 then nnn.getLsbD k else a.getLsbD (k - 12) := by
  unfold digitAddr
  change BitVec.getLsbD (w := 4 + 12) _ k = _
  simp only [BitVec.getLsbD_append]

/-- A byte of two digits: formats X of family F are also four digits. -/
theorem digitsByte_eq_digits (a b c d : Nibble) :
    digitsByte a b ((c ++ d : BitVec (4 + 4)) : Byte) = digits a b c d := by
  refine BitVec.eq_of_getLsbD_eq fun k hk => ?_
  rw [digitsByte_getLsbD, digits_getLsbD]
  change (if k < 8 then BitVec.getLsbD (w := 4 + 4) _ k else _) = _
  rw [BitVec.getLsbD_append]
  grind

@[simp] theorem opField_digits (a b c d : Nibble) : opField (digits a b c d) = a := by
  refine BitVec.eq_of_getLsbD_eq fun k hk => ?_
  simp only [opField, BitVec.getLsbD_extractLsb', digits_getLsbD]
  grind

@[simp] theorem opField_digitsByte (a b : Nibble) (kk : Byte) : opField (digitsByte a b kk) = a := by
  refine BitVec.eq_of_getLsbD_eq fun k hk => ?_
  simp only [opField, BitVec.getLsbD_extractLsb', digitsByte_getLsbD]
  grind

@[simp] theorem opField_digitAddr (a : Nibble) (nnn : Addr) : opField (digitAddr a nnn) = a := by
  refine BitVec.eq_of_getLsbD_eq fun k hk => ?_
  simp only [opField, BitVec.getLsbD_extractLsb', digitAddr_getLsbD]
  grind

@[simp] theorem xField_digits (a b c d : Nibble) : xField (digits a b c d) = b.toFin := by
  refine congrArg BitVec.toFin (BitVec.eq_of_getLsbD_eq fun k hk => ?_)
  simp only [BitVec.getLsbD_extractLsb', digits_getLsbD]
  grind

@[simp] theorem xField_digitsByte (a b : Nibble) (kk : Byte) :
    xField (digitsByte a b kk) = b.toFin := by
  refine congrArg BitVec.toFin (BitVec.eq_of_getLsbD_eq fun k hk => ?_)
  simp only [BitVec.getLsbD_extractLsb', digitsByte_getLsbD]
  grind

@[simp] theorem yField_digits (a b c d : Nibble) : yField (digits a b c d) = c.toFin := by
  refine congrArg BitVec.toFin (BitVec.eq_of_getLsbD_eq fun k hk => ?_)
  simp only [BitVec.getLsbD_extractLsb', digits_getLsbD]
  grind

@[simp] theorem nField_digits (a b c d : Nibble) : nField (digits a b c d) = d := by
  refine BitVec.eq_of_getLsbD_eq fun k hk => ?_
  simp only [nField, BitVec.getLsbD_extractLsb', digits_getLsbD]
  grind

@[simp] theorem kkField_digitsByte (a b : Nibble) (kk : Byte) :
    kkField (digitsByte a b kk) = kk := by
  refine BitVec.eq_of_getLsbD_eq fun k hk => ?_
  simp only [kkField, BitVec.getLsbD_extractLsb', digitsByte_getLsbD]
  grind

@[simp] theorem nnnField_digitAddr (a : Nibble) (nnn : Addr) :
    nnnField (digitAddr a nnn) = nnn := by
  refine BitVec.eq_of_getLsbD_eq fun k hk => ?_
  simp only [nnnField, BitVec.getLsbD_extractLsb', digitAddr_getLsbD]
  grind

@[simp] theorem regBits_toFin (r : Reg) : (regBits r).toFin = r := rfl

@[simp] theorem regBits_xField (w : Word) : regBits (xField w) = w.extractLsb' 8 4 := rfl

@[simp] theorem regBits_yField (w : Word) : regBits (yField w) = w.extractLsb' 4 4 := rfl

/-- A word is its four digits. -/
theorem eq_digits (w : Word) :
    w = digits (opField w) (regBits (xField w)) (regBits (yField w)) (nField w) := by
  refine BitVec.eq_of_getLsbD_eq fun k hk => ?_
  simp only [opField, nField, regBits_xField, regBits_yField, digits_getLsbD,
    BitVec.getLsbD_extractLsb']
  grind

/-- The two bytes of a word make the word again (R52, R71). -/
@[simp] theorem wordOfBytes_highByte_lowByte (w : Word) :
    wordOfBytes (highByte w) (lowByte w) = w := by
  refine BitVec.eq_of_getLsbD_eq fun k hk => ?_
  unfold wordOfBytes highByte lowByte
  change BitVec.getLsbD (w := 8 + 8) _ k = _
  simp only [BitVec.getLsbD_append, BitVec.getLsbD_extractLsb']
  grind

end Sys2Proof
end

