-- ==== Sys2Proof/Laws/Display.lean ====
section
/-! SUPPORT. The laws of the display: setting a pixel, and everything the pixel loop of `draw_byte`
(spec 44_display.md R151) does to the pixels and to the collision bit. -/

namespace Sys2Proof.Machine

@[simp] theorem column_val (n : Nat) : (column n).val = n % 64 := rfl
@[simp] theorem line_val (n : Nat) : (line n).val = n % 32 := rfl

@[simp] theorem pixel_blankDisplay (c : Fin 64) (r : Fin 32) : pixel blankDisplay c r = false := by
  simp [pixel, blankDisplay]

/-- Setting a pixel sets it and no other. -/
theorem pixel_setPixel (g : Display) (c : Fin 64) (r : Fin 32) (b : Bool) (c' : Fin 64)
    (r' : Fin 32) :
    pixel (setPixel g c r b) c' r' = if c' = c ∧ r' = r then b else pixel g c' r' := by
  unfold setPixel
  by_cases hb : pixel g c r = b
  · rw [if_pos hb]
    split_ifs with h
    · rw [h.1, h.2]; exact hb
    · rfl
  · rw [if_neg hb]
    have hc' := c'.isLt
    by_cases hr : r' = r
    · subst hr
      by_cases hc : c' = c
      · subst hc
        have hxor : (pixel g c' r' ^^ true) = b := by cases b <;> simp_all
        simpa [pixel, BitVec.getLsbD_twoPow] using hxor
      · have : c'.val ≠ c.val := fun e => hc (Fin.ext e)
        simp [pixel, hc, this]
    · have : r.val ≠ r'.val := fun e => hr (Fin.ext e.symm)
      simp [pixel, hr, Vector.getElem_set_ne, this]

@[simp] theorem spriteBits_length (b : Byte) : (spriteBits b).length = 8 := rfl

/-- Pixel j of a sprite row is bit 7 - j of its byte (R151). -/
theorem spriteBits_getElem (b : Byte) (j : Nat) (hj : j < (spriteBits b).length) :
    (spriteBits b)[j] = b.getLsbD (7 - j) := by
  simp only [spriteBits_length] at hj
  interval_cases j <;> rfl

/-- Columns less than 64 apart are distinct. -/
theorem column_injective {a i j : Nat} (hi : i < 64) (hj : j < 64)
    (h : column (a + i) = column (a + j)) : i = j := by
  have := congrArg Fin.val h
  simp only [column_val] at this
  omega

/-- The pixel loop changes its own row only. -/
theorem drawBits_other_row (g : Display) (x0 : Nat) (r : Fin 32) (bits : List Bool) (j : Nat)
    (c : Fin 64) {r' : Fin 32} (h : r' ≠ r) :
    pixel (drawBits g x0 r bits j).1 c r' = pixel g c r' := by
  induction bits generalizing g j with
  | nil => rfl
  | cons b bits ih => simp [drawBits, ih, pixel_setPixel, h]

/-- The pixel loop leaves the columns it does not reach alone. -/
theorem drawBits_outside (g : Display) (x0 : Nat) (r : Fin 32) (bits : List Bool) (j : Nat)
    (c : Fin 64) (h : ∀ k, k < bits.length → c ≠ column (x0 + (j + k))) :
    pixel (drawBits g x0 r bits j).1 c r = pixel g c r := by
  induction bits generalizing g j with
  | nil => rfl
  | cons b bits ih =>
    have h0 : c ≠ column (x0 + j) := h 0 (by simp)
    simp only [drawBits]
    rw [ih _ _ fun k hk => by
      have := h (k + 1) (by simpa using hk)
      rwa [show j + (k + 1) = j + 1 + k by omega] at this, pixel_setPixel]
    simp [h0]

/-- The pixel loop exclusive-ors its bits into the columns it reaches. -/
theorem drawBits_inside (g : Display) (x0 : Nat) (r : Fin 32) (bits : List Bool) (j : Nat)
    (hlen : bits.length ≤ 64) (k : Nat) (hk : k < bits.length) :
    pixel (drawBits g x0 r bits j).1 (column (x0 + (j + k))) r =
      (pixel g (column (x0 + (j + k))) r ^^ bits[k]) := by
  induction bits generalizing g j k with
  | nil => simp at hk
  | cons b bits ih =>
    simp only [List.length_cons] at hlen hk
    simp only [drawBits]
    cases k with
    | zero =>
      rw [drawBits_outside, pixel_setPixel]
      · simp
      · intro i hi heq
        have := column_injective (a := x0 + j) (i := 0) (j := 1 + i) (by omega) (by omega)
          (by rw [show x0 + j + (1 + i) = x0 + (j + 1 + i) by omega]; simpa using heq)
        omega
    | succ k =>
      have hne : column (x0 + (j + 1 + k)) ≠ column (x0 + j) := fun heq => by
        have := column_injective (a := x0 + j) (i := 1 + k) (j := 0) (by omega) (by omega)
          (by rw [show x0 + j + (1 + k) = x0 + (j + 1 + k) by omega]; simpa using heq)
        omega
      rw [show j + (k + 1) = j + 1 + k by omega, ih _ _ (by omega) k (by omega), pixel_setPixel]
      simp [hne]

/-- The collision bit: some set bit met a pixel that was set before the loop. -/
theorem drawBits_hit (g : Display) (x0 : Nat) (r : Fin 32) (bits : List Bool) (j : Nat)
    (hlen : bits.length ≤ 64) :
    (drawBits g x0 r bits j).2 = true ↔
      ∃ k, ∃ h : k < bits.length, bits[k] = true ∧ pixel g (column (x0 + (j + k))) r = true := by
  induction bits generalizing g j with
  | nil => simp [drawBits]
  | cons b bits ih =>
    simp only [List.length_cons] at hlen
    simp only [drawBits, Bool.or_eq_true, Bool.and_eq_true, ih _ _ (by omega)]
    have hpix : ∀ k, k < bits.length →
        pixel (setPixel g (column (x0 + j)) r (pixel g (column (x0 + j)) r ^^ b))
          (column (x0 + (j + 1 + k))) r = pixel g (column (x0 + (j + 1 + k))) r := fun k hk => by
      have hne : column (x0 + (j + 1 + k)) ≠ column (x0 + j) := fun heq => by
        have := column_injective (a := x0 + j) (i := 1 + k) (j := 0) (by omega) (by omega)
          (by rw [show x0 + j + (1 + k) = x0 + (j + 1 + k) by omega]; simpa using heq)
        omega
      simp [pixel_setPixel, hne]
    constructor
    · rintro (⟨hb, hp⟩ | ⟨k, hk, hb, hp⟩)
      · exact ⟨0, by simp, by simpa using hb, by simpa using hp⟩
      · refine ⟨k + 1, by simpa using hk, by simpa using hb, ?_⟩
        rw [hpix k hk] at hp
        rwa [show j + (k + 1) = j + 1 + k by omega]
    · rintro ⟨k, hk, hb, hp⟩
      cases k with
      | zero => exact .inl ⟨by simpa using hb, by simpa using hp⟩
      | succ k =>
        have hk' : k < bits.length := by simpa using hk
        refine .inr ⟨k, hk', by simpa using hb, ?_⟩
        rw [hpix k hk']
        rwa [show j + (k + 1) = j + 1 + k by omega] at hp

end Sys2Proof.Machine
end

