-- ==== Sys2Proof/Laws/Memory.lean ====
section
/-! SUPPORT. The laws of memory: a read after a write gives the byte written, a write leaves every
other address alone, every write keeps the canonical form, and canonical memories that read alike are
equal. -/

namespace Sys2Proof.Machine

theorem Memory.lookup_insert (m : Memory) (a : Nat) (b : Byte) (c : Nat) :
    Memory.lookup (Memory.insert m a b) c = if c = a then some b else Memory.lookup m c := by
  induction m with
  | nil => simp [Memory.insert, Memory.lookup, eq_comm]
  | cons e m ih =>
    obtain ⟨d, x⟩ := e
    simp only [Memory.insert]
    split_ifs <;> simp_all [Memory.lookup] <;> grind

theorem Memory.lookup_erase (m : Memory) (a c : Nat) :
    Memory.lookup (Memory.erase m a) c = if c = a then none else Memory.lookup m c := by
  induction m with
  | nil => simp [Memory.erase, Memory.lookup]
  | cons e m ih =>
    obtain ⟨d, x⟩ := e
    simp only [Memory.erase]
    split_ifs <;> simp_all [Memory.lookup]
    grind

/-- A write changes the byte at its address to the one written, and no other (R55). -/
theorem Memory.read_write (m : Memory) (a : Nat) (b : Byte) (c : Nat) :
    Memory.read (Memory.write m a b) c = if c = a then b else Memory.read m c := by
  unfold Memory.read Memory.write
  split
  · next h => rw [Memory.lookup_erase]; split <;> simp_all
  · rw [Memory.lookup_insert]; split <;> simp

@[simp] theorem Memory.read_write_same (m : Memory) (a : Nat) (b : Byte) :
    Memory.read (Memory.write m a b) a = b := by simp [Memory.read_write]

theorem Memory.read_write_of_ne (m : Memory) {a c : Nat} (h : c ≠ a) (b : Byte) :
    Memory.read (Memory.write m a b) c = Memory.read m c := by simp [Memory.read_write, h]

/-- Below 0x050 an unlisted address reads as `FONT` (R193). -/
theorem resetByte_font (i : Fin 80) : resetByte i.val = Config.font[i] := dif_pos i.isLt

/-- From 0x050 on an unlisted address reads as 0 (R42). -/
theorem resetByte_of_le {a : Nat} (h : 80 ≤ a) : resetByte a = 0 := dif_neg (by omega)

@[simp] theorem Memory.read_nil (a : Nat) : Memory.read [] a = resetByte a := rfl

/-! ## The canonical form -/

/-- What the canonical form of a non-empty memory says. -/
theorem Memory.wf_cons {a : Nat} {b : Byte} {m : Memory} :
    Memory.wf ((a, b) :: m) = true ↔
      a < 4096 ∧ b ≠ resetByte a ∧ Memory.above a m = true ∧ Memory.wf m = true := by
  simp [Memory.wf, and_assoc]

theorem Memory.above_of_lt {a c : Nat} {m : Memory} (h : a < c) (hm : Memory.above c m = true) :
    Memory.above a m = true := by
  cases m with
  | nil => rfl
  | cons e m => simp only [Memory.above, decide_eq_true_eq] at *; omega

theorem Memory.above_insert {a c : Nat} {b : Byte} {m : Memory} (h : c < a)
    (hm : Memory.above c m = true) : Memory.above c (Memory.insert m a b) = true := by
  cases m with
  | nil => simpa [Memory.insert, Memory.above] using h
  | cons e m =>
    simp only [Memory.insert]
    split_ifs <;> simp_all [Memory.above]

theorem Memory.wf_insert {a : Nat} {b : Byte} {m : Memory} (ha : a < 4096) (hb : b ≠ resetByte a)
    (hm : Memory.wf m = true) : Memory.wf (Memory.insert m a b) = true := by
  induction m with
  | nil => simp [Memory.insert, Memory.wf, Memory.above, ha, hb]
  | cons e m ih =>
    obtain ⟨d, x⟩ := e
    have ⟨hd, hx, hab, hwf⟩ := Memory.wf_cons.mp hm
    simp only [Memory.insert]
    split_ifs with h1 h2
    · exact Memory.wf_cons.mpr ⟨ha, hb, by simpa [Memory.above] using h1, hm⟩
    · subst h2; exact Memory.wf_cons.mpr ⟨ha, hb, hab, hwf⟩
    · exact Memory.wf_cons.mpr ⟨hd, hx, Memory.above_insert (by omega) hab, ih hwf⟩

theorem Memory.above_erase {a c : Nat} {m : Memory} (hm : Memory.wf m = true)
    (hc : Memory.above c m = true) : Memory.above c (Memory.erase m a) = true := by
  induction m with
  | nil => rfl
  | cons e m ih =>
    obtain ⟨d, x⟩ := e
    have ⟨_, _, hab, hwf⟩ := Memory.wf_cons.mp hm
    simp only [Memory.above, decide_eq_true_eq] at hc
    simp only [Memory.erase]
    split_ifs
    · exact ih hwf (Memory.above_of_lt hc hab)
    · simpa [Memory.above] using hc

theorem Memory.wf_erase {a : Nat} {m : Memory} (hm : Memory.wf m = true) :
    Memory.wf (Memory.erase m a) = true := by
  induction m with
  | nil => rfl
  | cons e m ih =>
    obtain ⟨d, x⟩ := e
    have ⟨hd, hx, hab, hwf⟩ := Memory.wf_cons.mp hm
    simp only [Memory.erase]
    split_ifs
    · exact ih hwf
    · exact Memory.wf_cons.mpr ⟨hd, hx, Memory.above_erase hwf hab, ih hwf⟩

/-- Every write inside the address space keeps the canonical form. -/
theorem Memory.wf_write {a : Nat} (ha : a < 4096) (b : Byte) {m : Memory}
    (hm : Memory.wf m = true) : Memory.wf (Memory.write m a b) = true := by
  unfold Memory.write
  split
  · exact Memory.wf_erase hm
  · next h => exact Memory.wf_insert ha h hm

/-! ## Equal memories are equal data -/

theorem Memory.lookup_of_above {c : Nat} {m : Memory} (hm : Memory.wf m = true)
    (hc : Memory.above c m = true) {a : Nat} (ha : a ≤ c) : Memory.lookup m a = none := by
  induction m with
  | nil => rfl
  | cons e m ih =>
    obtain ⟨d, x⟩ := e
    have ⟨_, _, hab, hwf⟩ := Memory.wf_cons.mp hm
    simp only [Memory.above, decide_eq_true_eq] at hc
    simp only [Memory.lookup, if_neg (show ¬ d = a by omega)]
    exact ih hwf (Memory.above_of_lt hc hab)

/-- A listed byte of a canonical memory is not what the unlisted address reads as. -/
theorem Memory.ne_of_lookup {m : Memory} (hm : Memory.wf m = true) {a : Nat} {b : Byte}
    (h : Memory.lookup m a = some b) : b ≠ resetByte a := by
  induction m with
  | nil => simp [Memory.lookup] at h
  | cons e m ih =>
    obtain ⟨d, x⟩ := e
    have ⟨_, hx, _, hwf⟩ := Memory.wf_cons.mp hm
    simp only [Memory.lookup] at h
    split_ifs at h with hd
    · cases h; exact hd ▸ hx
    · exact ih hwf h

theorem Memory.lookup_eq_of_read_eq {m n : Memory} (hm : Memory.wf m = true)
    (hn : Memory.wf n = true) {a : Nat} (h : Memory.read m a = Memory.read n a) :
    Memory.lookup m a = Memory.lookup n a := by
  unfold Memory.read at h
  cases hl : Memory.lookup m a with
  | none =>
    cases hk : Memory.lookup n a with
    | none => rfl
    | some c => rw [hl, hk] at h; exact absurd h.symm (Memory.ne_of_lookup hn hk)
  | some b =>
    cases hk : Memory.lookup n a with
    | none => rw [hl, hk] at h; exact absurd h (Memory.ne_of_lookup hm hl)
    | some c => rw [hl, hk] at h; exact congrArg some h

theorem Memory.eq_of_lookup_eq {m n : Memory} (hm : Memory.wf m = true) (hn : Memory.wf n = true)
    (h : ∀ a, Memory.lookup m a = Memory.lookup n a) : m = n := by
  induction m generalizing n with
  | nil =>
    cases n with
    | nil => rfl
    | cons e n => have := h e.1; simp [Memory.lookup] at this
  | cons e m ih =>
    obtain ⟨a, b⟩ := e
    have ⟨_, _, ha, hwm⟩ := Memory.wf_cons.mp hm
    cases n with
    | nil => have := h a; simp [Memory.lookup] at this
    | cons f n =>
      obtain ⟨c, d⟩ := f
      have ⟨_, _, hc, hwn⟩ := Memory.wf_cons.mp hn
      have hac : a = c := by
        rcases Nat.lt_trichotomy a c with hlt | heq | hgt
        · have := h a
          rw [Memory.lookup_of_above (a := a) (c := a) hn (by simpa [Memory.above] using hlt)
            (Nat.le_refl a)] at this
          simp [Memory.lookup] at this
        · exact heq
        · have := h c
          rw [Memory.lookup_of_above (a := c) (c := c) hm (by simpa [Memory.above] using hgt)
            (Nat.le_refl c)] at this
          simp [Memory.lookup] at this
      subst hac
      have hbd : b = d := by have := h a; simpa [Memory.lookup] using this
      subst hbd
      refine congrArg _ (ih hwm hwn fun k => ?_)
      by_cases hk : a = k
      · subst hk
        rw [Memory.lookup_of_above hwm ha (Nat.le_refl a),
          Memory.lookup_of_above hwn hc (Nat.le_refl a)]
      · have := h k; simpa [Memory.lookup, hk] using this

/-- Two canonical memories that read alike at every address are the same data. -/
theorem Memory.eq_of_read_eq {m n : Memory} (hm : Memory.wf m = true) (hn : Memory.wf n = true)
    (h : ∀ a, Memory.read m a = Memory.read n a) : m = n :=
  Memory.eq_of_lookup_eq hm hn fun a => Memory.lookup_eq_of_read_eq hm hn (h a)

end Sys2Proof.Machine
end

