-- ==== Sys2Proof/Laws/State.lean ====
section
/-! SUPPORT. One lemma per field of the state per update, true by definition, and the same for the
accessors `getV` and `memRead`, so that no later proof unfolds a record update. -/

namespace Sys2Proof.Machine

variable (s : State)

/-! ### `setV` -/

@[simp] theorem State.setV_v (r : Reg) (b : Byte) : (s.setV r b).v = s.v.set r b := rfl
@[simp] theorem State.setV_i (r : Reg) (b : Byte) : (s.setV r b).i = s.i := rfl
@[simp] theorem State.setV_pc (r : Reg) (b : Byte) : (s.setV r b).pc = s.pc := rfl
@[simp] theorem State.setV_sp (r : Reg) (b : Byte) : (s.setV r b).sp = s.sp := rfl
@[simp] theorem State.setV_stack (r : Reg) (b : Byte) : (s.setV r b).stack = s.stack := rfl
@[simp] theorem State.setV_dt (r : Reg) (b : Byte) : (s.setV r b).dt = s.dt := rfl
@[simp] theorem State.setV_st (r : Reg) (b : Byte) : (s.setV r b).st = s.st := rfl
@[simp] theorem State.setV_key (r : Reg) (b : Byte) : (s.setV r b).key = s.key := rfl
@[simp] theorem State.setV_opcode (r : Reg) (b : Byte) : (s.setV r b).opcode = s.opcode := rfl
@[simp] theorem State.setV_mem (r : Reg) (b : Byte) : (s.setV r b).mem = s.mem := rfl
@[simp] theorem State.setV_gfx (r : Reg) (b : Byte) : (s.setV r b).gfx = s.gfx := rfl
@[simp] theorem State.setV_draws (r : Reg) (b : Byte) : (s.setV r b).draws = s.draws := rfl
@[simp] theorem State.setV_memRead (r : Reg) (b : Byte) (a : Nat) : (s.setV r b).memRead a = s.memRead a := rfl

/-! ### `setRegs` -/

@[simp] theorem State.setRegs_v (f : Vector Byte 16) : (s.setRegs f).v = f := rfl
@[simp] theorem State.setRegs_i (f : Vector Byte 16) : (s.setRegs f).i = s.i := rfl
@[simp] theorem State.setRegs_pc (f : Vector Byte 16) : (s.setRegs f).pc = s.pc := rfl
@[simp] theorem State.setRegs_sp (f : Vector Byte 16) : (s.setRegs f).sp = s.sp := rfl
@[simp] theorem State.setRegs_stack (f : Vector Byte 16) : (s.setRegs f).stack = s.stack := rfl
@[simp] theorem State.setRegs_dt (f : Vector Byte 16) : (s.setRegs f).dt = s.dt := rfl
@[simp] theorem State.setRegs_st (f : Vector Byte 16) : (s.setRegs f).st = s.st := rfl
@[simp] theorem State.setRegs_key (f : Vector Byte 16) : (s.setRegs f).key = s.key := rfl
@[simp] theorem State.setRegs_opcode (f : Vector Byte 16) : (s.setRegs f).opcode = s.opcode := rfl
@[simp] theorem State.setRegs_mem (f : Vector Byte 16) : (s.setRegs f).mem = s.mem := rfl
@[simp] theorem State.setRegs_gfx (f : Vector Byte 16) : (s.setRegs f).gfx = s.gfx := rfl
@[simp] theorem State.setRegs_draws (f : Vector Byte 16) : (s.setRegs f).draws = s.draws := rfl
@[simp] theorem State.setRegs_memRead (f : Vector Byte 16) (a : Nat) : (s.setRegs f).memRead a = s.memRead a := rfl

/-! ### `setI` -/

@[simp] theorem State.setI_v (w : Word) : (s.setI w).v = s.v := rfl
@[simp] theorem State.setI_i (w : Word) : (s.setI w).i = w := rfl
@[simp] theorem State.setI_pc (w : Word) : (s.setI w).pc = s.pc := rfl
@[simp] theorem State.setI_sp (w : Word) : (s.setI w).sp = s.sp := rfl
@[simp] theorem State.setI_stack (w : Word) : (s.setI w).stack = s.stack := rfl
@[simp] theorem State.setI_dt (w : Word) : (s.setI w).dt = s.dt := rfl
@[simp] theorem State.setI_st (w : Word) : (s.setI w).st = s.st := rfl
@[simp] theorem State.setI_key (w : Word) : (s.setI w).key = s.key := rfl
@[simp] theorem State.setI_opcode (w : Word) : (s.setI w).opcode = s.opcode := rfl
@[simp] theorem State.setI_mem (w : Word) : (s.setI w).mem = s.mem := rfl
@[simp] theorem State.setI_gfx (w : Word) : (s.setI w).gfx = s.gfx := rfl
@[simp] theorem State.setI_draws (w : Word) : (s.setI w).draws = s.draws := rfl
@[simp] theorem State.setI_getV (w : Word) (q : Reg) : (s.setI w).getV q = s.getV q := rfl
@[simp] theorem State.setI_memRead (w : Word) (a : Nat) : (s.setI w).memRead a = s.memRead a := rfl

/-! ### `setPc` -/

@[simp] theorem State.setPc_v (w : Word) : (s.setPc w).v = s.v := rfl
@[simp] theorem State.setPc_i (w : Word) : (s.setPc w).i = s.i := rfl
@[simp] theorem State.setPc_pc (w : Word) : (s.setPc w).pc = w := rfl
@[simp] theorem State.setPc_sp (w : Word) : (s.setPc w).sp = s.sp := rfl
@[simp] theorem State.setPc_stack (w : Word) : (s.setPc w).stack = s.stack := rfl
@[simp] theorem State.setPc_dt (w : Word) : (s.setPc w).dt = s.dt := rfl
@[simp] theorem State.setPc_st (w : Word) : (s.setPc w).st = s.st := rfl
@[simp] theorem State.setPc_key (w : Word) : (s.setPc w).key = s.key := rfl
@[simp] theorem State.setPc_opcode (w : Word) : (s.setPc w).opcode = s.opcode := rfl
@[simp] theorem State.setPc_mem (w : Word) : (s.setPc w).mem = s.mem := rfl
@[simp] theorem State.setPc_gfx (w : Word) : (s.setPc w).gfx = s.gfx := rfl
@[simp] theorem State.setPc_draws (w : Word) : (s.setPc w).draws = s.draws := rfl
@[simp] theorem State.setPc_getV (w : Word) (q : Reg) : (s.setPc w).getV q = s.getV q := rfl
@[simp] theorem State.setPc_memRead (w : Word) (a : Nat) : (s.setPc w).memRead a = s.memRead a := rfl

/-! ### `setSp` -/

@[simp] theorem State.setSp_v (b : Byte) : (s.setSp b).v = s.v := rfl
@[simp] theorem State.setSp_i (b : Byte) : (s.setSp b).i = s.i := rfl
@[simp] theorem State.setSp_pc (b : Byte) : (s.setSp b).pc = s.pc := rfl
@[simp] theorem State.setSp_sp (b : Byte) : (s.setSp b).sp = b := rfl
@[simp] theorem State.setSp_stack (b : Byte) : (s.setSp b).stack = s.stack := rfl
@[simp] theorem State.setSp_dt (b : Byte) : (s.setSp b).dt = s.dt := rfl
@[simp] theorem State.setSp_st (b : Byte) : (s.setSp b).st = s.st := rfl
@[simp] theorem State.setSp_key (b : Byte) : (s.setSp b).key = s.key := rfl
@[simp] theorem State.setSp_opcode (b : Byte) : (s.setSp b).opcode = s.opcode := rfl
@[simp] theorem State.setSp_mem (b : Byte) : (s.setSp b).mem = s.mem := rfl
@[simp] theorem State.setSp_gfx (b : Byte) : (s.setSp b).gfx = s.gfx := rfl
@[simp] theorem State.setSp_draws (b : Byte) : (s.setSp b).draws = s.draws := rfl
@[simp] theorem State.setSp_getV (b : Byte) (q : Reg) : (s.setSp b).getV q = s.getV q := rfl
@[simp] theorem State.setSp_memRead (b : Byte) (a : Nat) : (s.setSp b).memRead a = s.memRead a := rfl

/-! ### `setCell` -/

@[simp] theorem State.setCell_v (k : Fin 16) (w : Word) : (s.setCell k w).v = s.v := rfl
@[simp] theorem State.setCell_i (k : Fin 16) (w : Word) : (s.setCell k w).i = s.i := rfl
@[simp] theorem State.setCell_pc (k : Fin 16) (w : Word) : (s.setCell k w).pc = s.pc := rfl
@[simp] theorem State.setCell_sp (k : Fin 16) (w : Word) : (s.setCell k w).sp = s.sp := rfl
@[simp] theorem State.setCell_stack (k : Fin 16) (w : Word) : (s.setCell k w).stack = s.stack.set k w := rfl
@[simp] theorem State.setCell_dt (k : Fin 16) (w : Word) : (s.setCell k w).dt = s.dt := rfl
@[simp] theorem State.setCell_st (k : Fin 16) (w : Word) : (s.setCell k w).st = s.st := rfl
@[simp] theorem State.setCell_key (k : Fin 16) (w : Word) : (s.setCell k w).key = s.key := rfl
@[simp] theorem State.setCell_opcode (k : Fin 16) (w : Word) : (s.setCell k w).opcode = s.opcode := rfl
@[simp] theorem State.setCell_mem (k : Fin 16) (w : Word) : (s.setCell k w).mem = s.mem := rfl
@[simp] theorem State.setCell_gfx (k : Fin 16) (w : Word) : (s.setCell k w).gfx = s.gfx := rfl
@[simp] theorem State.setCell_draws (k : Fin 16) (w : Word) : (s.setCell k w).draws = s.draws := rfl
@[simp] theorem State.setCell_getV (k : Fin 16) (w : Word) (q : Reg) : (s.setCell k w).getV q = s.getV q := rfl
@[simp] theorem State.setCell_memRead (k : Fin 16) (w : Word) (a : Nat) : (s.setCell k w).memRead a = s.memRead a := rfl

/-! ### `setDt` -/

@[simp] theorem State.setDt_v (b : Byte) : (s.setDt b).v = s.v := rfl
@[simp] theorem State.setDt_i (b : Byte) : (s.setDt b).i = s.i := rfl
@[simp] theorem State.setDt_pc (b : Byte) : (s.setDt b).pc = s.pc := rfl
@[simp] theorem State.setDt_sp (b : Byte) : (s.setDt b).sp = s.sp := rfl
@[simp] theorem State.setDt_stack (b : Byte) : (s.setDt b).stack = s.stack := rfl
@[simp] theorem State.setDt_dt (b : Byte) : (s.setDt b).dt = b := rfl
@[simp] theorem State.setDt_st (b : Byte) : (s.setDt b).st = s.st := rfl
@[simp] theorem State.setDt_key (b : Byte) : (s.setDt b).key = s.key := rfl
@[simp] theorem State.setDt_opcode (b : Byte) : (s.setDt b).opcode = s.opcode := rfl
@[simp] theorem State.setDt_mem (b : Byte) : (s.setDt b).mem = s.mem := rfl
@[simp] theorem State.setDt_gfx (b : Byte) : (s.setDt b).gfx = s.gfx := rfl
@[simp] theorem State.setDt_draws (b : Byte) : (s.setDt b).draws = s.draws := rfl
@[simp] theorem State.setDt_getV (b : Byte) (q : Reg) : (s.setDt b).getV q = s.getV q := rfl
@[simp] theorem State.setDt_memRead (b : Byte) (a : Nat) : (s.setDt b).memRead a = s.memRead a := rfl

/-! ### `setSt` -/

@[simp] theorem State.setSt_v (b : Byte) : (s.setSt b).v = s.v := rfl
@[simp] theorem State.setSt_i (b : Byte) : (s.setSt b).i = s.i := rfl
@[simp] theorem State.setSt_pc (b : Byte) : (s.setSt b).pc = s.pc := rfl
@[simp] theorem State.setSt_sp (b : Byte) : (s.setSt b).sp = s.sp := rfl
@[simp] theorem State.setSt_stack (b : Byte) : (s.setSt b).stack = s.stack := rfl
@[simp] theorem State.setSt_dt (b : Byte) : (s.setSt b).dt = s.dt := rfl
@[simp] theorem State.setSt_st (b : Byte) : (s.setSt b).st = b := rfl
@[simp] theorem State.setSt_key (b : Byte) : (s.setSt b).key = s.key := rfl
@[simp] theorem State.setSt_opcode (b : Byte) : (s.setSt b).opcode = s.opcode := rfl
@[simp] theorem State.setSt_mem (b : Byte) : (s.setSt b).mem = s.mem := rfl
@[simp] theorem State.setSt_gfx (b : Byte) : (s.setSt b).gfx = s.gfx := rfl
@[simp] theorem State.setSt_draws (b : Byte) : (s.setSt b).draws = s.draws := rfl
@[simp] theorem State.setSt_getV (b : Byte) (q : Reg) : (s.setSt b).getV q = s.getV q := rfl
@[simp] theorem State.setSt_memRead (b : Byte) (a : Nat) : (s.setSt b).memRead a = s.memRead a := rfl

/-! ### `setKey` -/

@[simp] theorem State.setKey_v (k : Fin 16) (b : Bool) : (s.setKey k b).v = s.v := rfl
@[simp] theorem State.setKey_i (k : Fin 16) (b : Bool) : (s.setKey k b).i = s.i := rfl
@[simp] theorem State.setKey_pc (k : Fin 16) (b : Bool) : (s.setKey k b).pc = s.pc := rfl
@[simp] theorem State.setKey_sp (k : Fin 16) (b : Bool) : (s.setKey k b).sp = s.sp := rfl
@[simp] theorem State.setKey_stack (k : Fin 16) (b : Bool) : (s.setKey k b).stack = s.stack := rfl
@[simp] theorem State.setKey_dt (k : Fin 16) (b : Bool) : (s.setKey k b).dt = s.dt := rfl
@[simp] theorem State.setKey_st (k : Fin 16) (b : Bool) : (s.setKey k b).st = s.st := rfl
@[simp] theorem State.setKey_key (k : Fin 16) (b : Bool) : (s.setKey k b).key = s.key.set k b := rfl
@[simp] theorem State.setKey_opcode (k : Fin 16) (b : Bool) : (s.setKey k b).opcode = s.opcode := rfl
@[simp] theorem State.setKey_mem (k : Fin 16) (b : Bool) : (s.setKey k b).mem = s.mem := rfl
@[simp] theorem State.setKey_gfx (k : Fin 16) (b : Bool) : (s.setKey k b).gfx = s.gfx := rfl
@[simp] theorem State.setKey_draws (k : Fin 16) (b : Bool) : (s.setKey k b).draws = s.draws := rfl
@[simp] theorem State.setKey_getV (k : Fin 16) (b : Bool) (q : Reg) : (s.setKey k b).getV q = s.getV q := rfl
@[simp] theorem State.setKey_memRead (k : Fin 16) (b : Bool) (a : Nat) : (s.setKey k b).memRead a = s.memRead a := rfl

/-! ### `setOpcode` -/

@[simp] theorem State.setOpcode_v (w : Word) : (s.setOpcode w).v = s.v := rfl
@[simp] theorem State.setOpcode_i (w : Word) : (s.setOpcode w).i = s.i := rfl
@[simp] theorem State.setOpcode_pc (w : Word) : (s.setOpcode w).pc = s.pc := rfl
@[simp] theorem State.setOpcode_sp (w : Word) : (s.setOpcode w).sp = s.sp := rfl
@[simp] theorem State.setOpcode_stack (w : Word) : (s.setOpcode w).stack = s.stack := rfl
@[simp] theorem State.setOpcode_dt (w : Word) : (s.setOpcode w).dt = s.dt := rfl
@[simp] theorem State.setOpcode_st (w : Word) : (s.setOpcode w).st = s.st := rfl
@[simp] theorem State.setOpcode_key (w : Word) : (s.setOpcode w).key = s.key := rfl
@[simp] theorem State.setOpcode_opcode (w : Word) : (s.setOpcode w).opcode = w := rfl
@[simp] theorem State.setOpcode_mem (w : Word) : (s.setOpcode w).mem = s.mem := rfl
@[simp] theorem State.setOpcode_gfx (w : Word) : (s.setOpcode w).gfx = s.gfx := rfl
@[simp] theorem State.setOpcode_draws (w : Word) : (s.setOpcode w).draws = s.draws := rfl
@[simp] theorem State.setOpcode_getV (w : Word) (q : Reg) : (s.setOpcode w).getV q = s.getV q := rfl
@[simp] theorem State.setOpcode_memRead (w : Word) (a : Nat) : (s.setOpcode w).memRead a = s.memRead a := rfl

/-! ### `setMem` -/

@[simp] theorem State.setMem_v (m : Memory) : (s.setMem m).v = s.v := rfl
@[simp] theorem State.setMem_i (m : Memory) : (s.setMem m).i = s.i := rfl
@[simp] theorem State.setMem_pc (m : Memory) : (s.setMem m).pc = s.pc := rfl
@[simp] theorem State.setMem_sp (m : Memory) : (s.setMem m).sp = s.sp := rfl
@[simp] theorem State.setMem_stack (m : Memory) : (s.setMem m).stack = s.stack := rfl
@[simp] theorem State.setMem_dt (m : Memory) : (s.setMem m).dt = s.dt := rfl
@[simp] theorem State.setMem_st (m : Memory) : (s.setMem m).st = s.st := rfl
@[simp] theorem State.setMem_key (m : Memory) : (s.setMem m).key = s.key := rfl
@[simp] theorem State.setMem_opcode (m : Memory) : (s.setMem m).opcode = s.opcode := rfl
@[simp] theorem State.setMem_mem (m : Memory) : (s.setMem m).mem = m := rfl
@[simp] theorem State.setMem_gfx (m : Memory) : (s.setMem m).gfx = s.gfx := rfl
@[simp] theorem State.setMem_draws (m : Memory) : (s.setMem m).draws = s.draws := rfl
@[simp] theorem State.setMem_getV (m : Memory) (q : Reg) : (s.setMem m).getV q = s.getV q := rfl

/-! ### `setGfx` -/

@[simp] theorem State.setGfx_v (g : Display) : (s.setGfx g).v = s.v := rfl
@[simp] theorem State.setGfx_i (g : Display) : (s.setGfx g).i = s.i := rfl
@[simp] theorem State.setGfx_pc (g : Display) : (s.setGfx g).pc = s.pc := rfl
@[simp] theorem State.setGfx_sp (g : Display) : (s.setGfx g).sp = s.sp := rfl
@[simp] theorem State.setGfx_stack (g : Display) : (s.setGfx g).stack = s.stack := rfl
@[simp] theorem State.setGfx_dt (g : Display) : (s.setGfx g).dt = s.dt := rfl
@[simp] theorem State.setGfx_st (g : Display) : (s.setGfx g).st = s.st := rfl
@[simp] theorem State.setGfx_key (g : Display) : (s.setGfx g).key = s.key := rfl
@[simp] theorem State.setGfx_opcode (g : Display) : (s.setGfx g).opcode = s.opcode := rfl
@[simp] theorem State.setGfx_mem (g : Display) : (s.setGfx g).mem = s.mem := rfl
@[simp] theorem State.setGfx_gfx (g : Display) : (s.setGfx g).gfx = g := rfl
@[simp] theorem State.setGfx_draws (g : Display) : (s.setGfx g).draws = s.draws := rfl
@[simp] theorem State.setGfx_getV (g : Display) (q : Reg) : (s.setGfx g).getV q = s.getV q := rfl
@[simp] theorem State.setGfx_memRead (g : Display) (a : Nat) : (s.setGfx g).memRead a = s.memRead a := rfl

/-! ### `countDraw` -/

@[simp] theorem State.countDraw_v : (s.countDraw).v = s.v := rfl
@[simp] theorem State.countDraw_i : (s.countDraw).i = s.i := rfl
@[simp] theorem State.countDraw_pc : (s.countDraw).pc = s.pc := rfl
@[simp] theorem State.countDraw_sp : (s.countDraw).sp = s.sp := rfl
@[simp] theorem State.countDraw_stack : (s.countDraw).stack = s.stack := rfl
@[simp] theorem State.countDraw_dt : (s.countDraw).dt = s.dt := rfl
@[simp] theorem State.countDraw_st : (s.countDraw).st = s.st := rfl
@[simp] theorem State.countDraw_key : (s.countDraw).key = s.key := rfl
@[simp] theorem State.countDraw_opcode : (s.countDraw).opcode = s.opcode := rfl
@[simp] theorem State.countDraw_mem : (s.countDraw).mem = s.mem := rfl
@[simp] theorem State.countDraw_gfx : (s.countDraw).gfx = s.gfx := rfl
@[simp] theorem State.countDraw_draws : (s.countDraw).draws = s.draws + 1 := rfl
@[simp] theorem State.countDraw_getV (q : Reg) : (s.countDraw).getV q = s.getV q := rfl
@[simp] theorem State.countDraw_memRead (a : Nat) : (s.countDraw).memRead a = s.memRead a := rfl

/-! ### Reading a register after a write of one -/

@[simp] theorem State.getV_setV_same (r : Reg) (b : Byte) : (s.setV r b).getV r = b := by
  simp [State.getV]

theorem State.getV_setV_of_ne {q r : Reg} (h : q ≠ r) (b : Byte) :
    (s.setV r b).getV q = s.getV q := by
  have : r.val ≠ q.val := fun e => h (Fin.ext e.symm)
  simp [State.getV, Vector.getElem_set_ne, this]

/-- A register after a write of one, as one case split. -/
theorem State.getV_setV (q r : Reg) (b : Byte) :
    (s.setV r b).getV q = if q = r then b else s.getV q := by
  split
  · next h => subst h; exact State.getV_setV_same s q b
  · next h => exact State.getV_setV_of_ne s h b

end Sys2Proof.Machine
end

