-- ==== Sys2Proof/Laws/Ops.lean ====
section
/-! SUPPORT. One lemma per shared operation that says everything it can do; proofs cite these and do
not unfold the operation. -/

namespace Sys2Proof.Machine

variable (s : State)

/-! ### Memory -/

theorem State.memWrite_eq_setMem (a : Nat) (b : Byte) :
    s.memWrite a b = s.setMem (Memory.write s.mem (a % 4096) b) := rfl

theorem State.memRead_setMem (m : Memory) (a : Nat) :
    (s.setMem m).memRead a = Memory.read m (a % 4096) := rfl

/-- `MemRead` reduces its address mod 4096 (R9). -/
theorem State.memRead_mod (a : Nat) : s.memRead (a % 4096) = s.memRead a := by
  simp [State.memRead]

theorem State.memRead_congr {a b : Nat} (h : a % 4096 = b % 4096) : s.memRead a = s.memRead b := by
  simp [State.memRead, h]

/-- The font a state holds depends on its memory only. -/
theorem State.holdsFont_of_mem_eq {s t : State} {font : Vector Byte 80} (h : s.HoldsFont font)
    (hm : t.mem = s.mem) : t.HoldsFont font := fun i => by
  rw [← h i, State.memRead, hm, State.memRead]

/-- After `Reset` memory holds the parameter `FONT` (R190, R193). -/
theorem State.reset_holdsFont : State.reset.HoldsFont Config.font := fun i => by
  rw [← resetByte_font, State.memRead, Nat.mod_eq_of_lt (by omega)]
  rfl

/-- A byte store is seen at its cell and nowhere else (R55). -/
theorem State.memRead_memWrite (a : Nat) (b : Byte) (c : Nat) :
    (s.memWrite a b).memRead c = if c % 4096 = a % 4096 then b else s.memRead c := by
  simp [State.memWrite_eq_setMem, Memory.read_write, State.memRead]

/-- A store of bytes changes memory only. -/
theorem State.memWriteBytes_eq_setMem (a : Nat) (bs : List Byte) :
    s.memWriteBytes a bs = s.setMem (s.memWriteBytes a bs).mem := by
  induction bs generalizing s a with
  | nil => rfl
  | cons b bs ih =>
    show (s.memWrite a b).memWriteBytes (a + 1) bs = _
    rw [ih]; rfl

@[simp] theorem State.memWriteBytes_v (a : Nat) (bs : List Byte) :
    (s.memWriteBytes a bs).v = s.v := by rw [State.memWriteBytes_eq_setMem]; rfl

@[simp] theorem State.memWriteBytes_i (a : Nat) (bs : List Byte) :
    (s.memWriteBytes a bs).i = s.i := by rw [State.memWriteBytes_eq_setMem]; rfl

@[simp] theorem State.memWriteBytes_pc (a : Nat) (bs : List Byte) :
    (s.memWriteBytes a bs).pc = s.pc := by rw [State.memWriteBytes_eq_setMem]; rfl

@[simp] theorem State.memWriteBytes_sp (a : Nat) (bs : List Byte) :
    (s.memWriteBytes a bs).sp = s.sp := by rw [State.memWriteBytes_eq_setMem]; rfl

@[simp] theorem State.memWriteBytes_stack (a : Nat) (bs : List Byte) :
    (s.memWriteBytes a bs).stack = s.stack := by rw [State.memWriteBytes_eq_setMem]; rfl

@[simp] theorem State.memWriteBytes_dt (a : Nat) (bs : List Byte) :
    (s.memWriteBytes a bs).dt = s.dt := by rw [State.memWriteBytes_eq_setMem]; rfl

@[simp] theorem State.memWriteBytes_st (a : Nat) (bs : List Byte) :
    (s.memWriteBytes a bs).st = s.st := by rw [State.memWriteBytes_eq_setMem]; rfl

@[simp] theorem State.memWriteBytes_key (a : Nat) (bs : List Byte) :
    (s.memWriteBytes a bs).key = s.key := by rw [State.memWriteBytes_eq_setMem]; rfl

@[simp] theorem State.memWriteBytes_opcode (a : Nat) (bs : List Byte) :
    (s.memWriteBytes a bs).opcode = s.opcode := by rw [State.memWriteBytes_eq_setMem]; rfl

@[simp] theorem State.memWriteBytes_gfx (a : Nat) (bs : List Byte) :
    (s.memWriteBytes a bs).gfx = s.gfx := by rw [State.memWriteBytes_eq_setMem]; rfl

@[simp] theorem State.memWriteBytes_draws (a : Nat) (bs : List Byte) :
    (s.memWriteBytes a bs).draws = s.draws := by rw [State.memWriteBytes_eq_setMem]; rfl

@[simp] theorem State.memWriteBytes_getV (a : Nat) (bs : List Byte) (q : Reg) :
    (s.memWriteBytes a bs).getV q = s.getV q := by rw [State.memWriteBytes_eq_setMem]; rfl

/-- A store of bytes leaves every other cell alone. -/
theorem State.memWriteBytes_outside (a : Nat) (bs : List Byte) (c : Nat)
    (h : ∀ k, k < bs.length → c % 4096 ≠ (a + k) % 4096) :
    (s.memWriteBytes a bs).memRead c = s.memRead c := by
  induction bs generalizing s a with
  | nil => rfl
  | cons b bs ih =>
    show ((s.memWrite a b).memWriteBytes (a + 1) bs).memRead c = _
    rw [ih _ _ fun k hk => by
      have := h (k + 1) (by simpa using hk)
      rwa [show a + (k + 1) = a + 1 + k by omega] at this,
      State.memRead_memWrite, if_neg (by simpa using h 0 (by simp))]

/-- A store of at most 4096 bytes puts byte k at `a + k`, whatever wraps (R51). -/
theorem State.memWriteBytes_inside (a : Nat) (bs : List Byte) (hlen : bs.length ≤ 4096) (k : Nat)
    (hk : k < bs.length) : (s.memWriteBytes a bs).memRead (a + k) = bs[k] := by
  induction bs generalizing s a k with
  | nil => simp at hk
  | cons b bs ih =>
    show ((s.memWrite a b).memWriteBytes (a + 1) bs).memRead (a + k) = _
    simp only [List.length_cons] at hlen hk
    cases k with
    | zero =>
      rw [State.memWriteBytes_outside _ _ _ _ fun j hj => by omega, State.memRead_memWrite,
        if_pos (by simp)]
      rfl
    | succ k =>
      rw [show a + (k + 1) = a + 1 + k by omega, ih _ _ (by omega) k (by omega)]
      rfl

theorem State.memWriteBytes_wf (a : Nat) (bs : List Byte) (h : Memory.wf s.mem = true) :
    Memory.wf (s.memWriteBytes a bs).mem = true := by
  induction bs generalizing s a with
  | nil => exact h
  | cons b bs ih =>
    exact ih _ _ (Memory.wf_write (Nat.mod_lt _ (by decide)) b h)

@[simp] theorem State.memReadBytes_length (a n : Nat) : (s.memReadBytes a n).length = n := by
  simp [State.memReadBytes]

@[simp] theorem State.memReadBytes_getElem (a n k : Nat) (hk : k < (s.memReadBytes a n).length) :
    (s.memReadBytes a n)[k] = s.memRead (a + k) := by simp [State.memReadBytes]

/-! ### Fetch and skip -/

@[simp] theorem State.fetched_v : s.fetched.v = s.v := rfl
@[simp] theorem State.fetched_i : s.fetched.i = s.i := rfl
@[simp] theorem State.fetched_pc : s.fetched.pc = s.pc + 2 := rfl
@[simp] theorem State.fetched_sp : s.fetched.sp = s.sp := rfl
@[simp] theorem State.fetched_stack : s.fetched.stack = s.stack := rfl
@[simp] theorem State.fetched_dt : s.fetched.dt = s.dt := rfl
@[simp] theorem State.fetched_st : s.fetched.st = s.st := rfl
@[simp] theorem State.fetched_key : s.fetched.key = s.key := rfl
@[simp] theorem State.fetched_opcode : s.fetched.opcode = s.fetchWord := rfl
@[simp] theorem State.fetched_mem : s.fetched.mem = s.mem := rfl
@[simp] theorem State.fetched_gfx : s.fetched.gfx = s.gfx := rfl
@[simp] theorem State.fetched_draws : s.fetched.draws = s.draws := rfl
@[simp] theorem State.fetched_getV (q : Reg) : s.fetched.getV q = s.getV q := rfl
@[simp] theorem State.fetched_memRead (a : Nat) : s.fetched.memRead a = s.memRead a := rfl

@[simp] theorem State.skipIf_v (c : Bool) : (s.skipIf c).v = s.v := by
  cases c <;> rfl
@[simp] theorem State.skipIf_i (c : Bool) : (s.skipIf c).i = s.i := by
  cases c <;> rfl
@[simp] theorem State.skipIf_pc (c : Bool) : (s.skipIf c).pc = if c then s.pc + 2 else s.pc := by
  cases c <;> rfl
@[simp] theorem State.skipIf_sp (c : Bool) : (s.skipIf c).sp = s.sp := by
  cases c <;> rfl
@[simp] theorem State.skipIf_stack (c : Bool) : (s.skipIf c).stack = s.stack := by
  cases c <;> rfl
@[simp] theorem State.skipIf_dt (c : Bool) : (s.skipIf c).dt = s.dt := by
  cases c <;> rfl
@[simp] theorem State.skipIf_st (c : Bool) : (s.skipIf c).st = s.st := by
  cases c <;> rfl
@[simp] theorem State.skipIf_key (c : Bool) : (s.skipIf c).key = s.key := by
  cases c <;> rfl
@[simp] theorem State.skipIf_opcode (c : Bool) : (s.skipIf c).opcode = s.opcode := by
  cases c <;> rfl
@[simp] theorem State.skipIf_mem (c : Bool) : (s.skipIf c).mem = s.mem := by
  cases c <;> rfl
@[simp] theorem State.skipIf_gfx (c : Bool) : (s.skipIf c).gfx = s.gfx := by
  cases c <;> rfl
@[simp] theorem State.skipIf_draws (c : Bool) : (s.skipIf c).draws = s.draws := by
  cases c <;> rfl
@[simp] theorem State.skipIf_getV (c : Bool) (q : Reg) : (s.skipIf c).getV q = s.getV q := by
  cases c <;> rfl
@[simp] theorem State.skipIf_memRead (c : Bool) (a : Nat) : (s.skipIf c).memRead a = s.memRead a := by
  cases c <;> rfl

/-! ### The return stack -/

/-- CALL's push: it answers a state exactly when a cell is free. -/
theorem State.pushPc_ok (h : s.sp.toNat < 16) :
    s.pushPc = .ok ((s.setCell ⟨s.sp.toNat, h⟩ s.pc).setSp (s.sp + 1)) := by
  simp [State.pushPc, h]

theorem State.pushPc_full (h : 16 ≤ s.sp.toNat) : s.pushPc = .error .stackOverflow := by
  simp [State.pushPc, Nat.not_lt.mpr h]

/-- RET's pop: it answers a state exactly when `sp` is in 1 to 16. -/
theorem State.popPc_ok (h0 : s.sp ≠ 0) (h : s.sp.toNat - 1 < 16) :
    s.popPc = .ok ((s.setSp (s.sp - 1)).setPc s.stack[s.sp.toNat - 1]) := by
  rw [State.popPc, if_neg h0, dif_pos h]

theorem State.popPc_empty (h : s.sp = 0) : s.popPc = .error .stackUnderflow := by
  simp [State.popPc, h]

theorem State.popPc_outside (h : 16 < s.sp.toNat) :
    s.popPc = .error .stackPointerOutOfRange := by
  have h0 : s.sp ≠ 0 := by rintro h0; simp [h0] at h
  rw [State.popPc, if_neg h0, dif_neg (by omega)]

/-- Everything the pop can answer. -/
theorem State.popPc_cases :
    (s.sp = 0 ∧ s.popPc = .error .stackUnderflow) ∨
    (16 < s.sp.toNat ∧ s.popPc = .error .stackPointerOutOfRange) ∨
    (∃ h : s.sp.toNat - 1 < 16, s.sp ≠ 0 ∧
      s.popPc = .ok ((s.setSp (s.sp - 1)).setPc s.stack[s.sp.toNat - 1])) := by
  by_cases h0 : s.sp = 0
  · exact .inl ⟨h0, s.popPc_empty h0⟩
  · by_cases h : s.sp.toNat - 1 < 16
    · exact .inr (.inr ⟨h, h0, s.popPc_ok h0 h⟩)
    · exact .inr (.inl ⟨by omega, s.popPc_outside (by omega)⟩)

/-- `sp - 1` and `sp + 1` as numbers, where they do not wrap. -/
theorem toNat_pred {b : Byte} (h : b ≠ 0) : (b - 1).toNat = b.toNat - 1 := by
  have : b.toNat ≠ 0 := fun e => h (BitVec.eq_of_toNat_eq (by simpa using e))
  rw [BitVec.toNat_sub]; simp; omega

theorem toNat_succ {b : Byte} (h : b.toNat < 255) : (b + 1).toNat = b.toNat + 1 := by
  rw [BitVec.toNat_add]; simp; omega

/-! ### Operands -/

@[simp] theorem State.loadRegs_getV (a : Nat) (x q : Reg) :
    (s.loadRegs a x).getV q = if q ≤ x then s.memRead (a + q.val) else s.getV q := by
  simp [State.loadRegs, State.getV]

theorem State.regsUpTo_length (x : Reg) : (s.regsUpTo x).length = x.val + 1 := by
  simp [State.regsUpTo]

theorem State.regsUpTo_getElem (x : Reg) (k : Nat) (hk : k < (s.regsUpTo x).length) :
    (s.regsUpTo x)[k] = s.getV ⟨k, by rw [s.regsUpTo_length] at hk; omega⟩ := by
  simp [State.regsUpTo, State.getV]

/-- The key Fx0A's scan finds is set, and no lower one is (R163). -/
theorem State.firstKey_eq_some {k : Fin 16} (h : s.firstKey = some k) :
    s.key[k] = true ∧ ∀ j : Fin 16, j < k → s.key[j] = false := by
  simp only [State.firstKey] at h
  obtain ⟨hk, i, hi, hik, hlt⟩ := List.find?_eq_some_iff_getElem.mp h
  refine ⟨hk, fun j hj => ?_⟩
  simp only [List.getElem_finRange] at hik hlt
  subst hik
  have := hlt j.val (Fin.lt_def.mp hj)
  simpa using this

theorem State.firstKey_eq_none (h : s.firstKey = none) (k : Fin 16) : s.key[k] = false := by
  have := List.find?_eq_none.mp h k (List.mem_finRange k)
  simpa using this

/-! ### Flags -/

@[simp] theorem flagByte_toNat (f : Bool) : (flagByte f).toNat = if f then 1 else 0 := by
  cases f <;> rfl

theorem sumOf_toNat (a b : Byte) : (sumOf a b).toNat = (a.toNat + b.toNat) % 256 := by
  simp [sumOf]

theorem differenceOf_toNat (a b : Byte) :
    ((differenceOf a b).toNat : Int) = ((a.toNat : Int) - b.toNat) % 256 := by
  simp [differenceOf, BitVec.toNat_ofInt]; omega

theorem halfOf_toNat (a : Byte) : (halfOf a).toNat = a.toNat / 2 := by
  simp [halfOf]; omega

theorem doubleOf_toNat (a : Byte) : (doubleOf a).toNat = a.toNat * 2 % 256 := by
  simp [doubleOf]

/-- The last write wins: VF holds the flag whatever x is (R26). -/
theorem State.setResultAndFlag_flag (x : Reg) (b : Byte) (f : Bool) :
    (s.setResultAndFlag x b f).getV 15 = flagByte f :=
  State.getV_setV_same _ _ _

theorem State.setResultAndFlag_result {x : Reg} (h : x ≠ 15) (b : Byte) (f : Bool) :
    (s.setResultAndFlag x b f).getV x = b := by
  simp [State.setResultAndFlag, State.setFlag, State.getV_setV_of_ne _ h]

theorem State.setResultAndFlag_other {x q : Reg} (hx : q ≠ x) (hf : q ≠ 15) (b : Byte) (f : Bool) :
    (s.setResultAndFlag x b f).getV q = s.getV q := by
  simp [State.setResultAndFlag, State.setFlag, State.getV_setV_of_ne _ hx,
    State.getV_setV_of_ne _ hf]

end Sys2Proof.Machine
end

