-- ==== Sys2Proof/Laws/Frames.lean ====
section
/-! SUPPORT. What each update leaves unchanged, in the terms of `State.component` (spec 00_scope.md R19):
one frame lemma per update, and how frames compose. -/

namespace Sys2Proof.Machine

variable (s : State)

theorem State.component_setV (r : Reg) (b : Byte) {c : Component} (h : c ≠ .reg r) :
    (s.setV r b).component c = s.component c := by
  cases c <;> try rfl
  next q =>
    have : q ≠ r := fun e => h (e ▸ rfl)
    simp [State.component, State.getV_setV_of_ne _ this]

theorem State.component_setI (w : Word) {c : Component} (h : c ≠ .index) :
    (s.setI w).component c = s.component c := by
  cases c <;> first | rfl | exact absurd rfl h

theorem State.component_setPc (w : Word) {c : Component} (h : c ≠ .pc) :
    (s.setPc w).component c = s.component c := by
  cases c <;> first | rfl | exact absurd rfl h

theorem State.component_setSp (b : Byte) {c : Component} (h : c ≠ .sp) :
    (s.setSp b).component c = s.component c := by
  cases c <;> first | rfl | exact absurd rfl h

theorem State.component_setCell (k : Fin 16) (w : Word) {c : Component} (h : c ≠ .cell k) :
    (s.setCell k w).component c = s.component c := by
  cases c <;> try rfl
  next q =>
    have : k.val ≠ q.val := fun e => h (by rw [Fin.ext e])
    simp [State.component, Vector.getElem_set_ne, this]

theorem State.component_setDt (b : Byte) {c : Component} (h : c ≠ .delay) :
    (s.setDt b).component c = s.component c := by
  cases c <;> first | rfl | exact absurd rfl h

theorem State.component_setSt (b : Byte) {c : Component} (h : c ≠ .sound) :
    (s.setSt b).component c = s.component c := by
  cases c <;> first | rfl | exact absurd rfl h

theorem State.component_setKey (k : Fin 16) (b : Bool) {c : Component} (h : c ≠ .key k) :
    (s.setKey k b).component c = s.component c := by
  cases c <;> try rfl
  next q =>
    have : k.val ≠ q.val := fun e => h (by rw [Fin.ext e])
    simp [State.component, Vector.getElem_set_ne, this]

theorem State.component_setOpcode (w : Word) {c : Component} (h : c ≠ .opcode) :
    (s.setOpcode w).component c = s.component c := by
  cases c <;> first | rfl | exact absurd rfl h

theorem State.component_countDraw {c : Component} (h : c ≠ .draws) :
    s.countDraw.component c = s.component c := by
  cases c <;> first | rfl | exact absurd rfl h

theorem State.component_setGfx (g : Display) {c : Component}
    (h : ∀ col row, c = .pixel col row → pixel g col row = pixel s.gfx col row) :
    (s.setGfx g).component c = s.component c := by
  cases c <;> try rfl
  next col row => simp [State.component, h col row rfl]

theorem State.component_setRegs (f : Vector Byte 16) {c : Component}
    (h : ∀ r : Reg, c = .reg r → f[r] = s.getV r) : (s.setRegs f).component c = s.component c := by
  cases c <;> try rfl
  next q =>
    have := h q rfl
    simp only [State.component, State.getV, State.setRegs_v] at *
    rw [this]

theorem State.component_loadRegs (a : Nat) (x : Reg) {c : Component}
    (h : ∀ r, r ≤ x → c ≠ .reg r) : (s.loadRegs a x).component c = s.component c := by
  refine State.component_setRegs s _ fun r hr => ?_
  have : ¬ r ≤ x := fun hle => h r hle hr
  simp [this]

theorem State.component_skipIf (b : Bool) {c : Component} (h : c ≠ .pc) :
    (s.skipIf b).component c = s.component c := by
  cases b
  · rfl
  · exact State.component_setPc s _ h

/-- A store of bytes changes the bytes stored to and nothing else. -/
theorem State.component_memWriteBytes (a : Nat) (bs : List Byte) {c : Component}
    (h : ¬ inBytes a bs.length c) : (s.memWriteBytes a bs).component c = s.component c := by
  cases c
  case mem b =>
    exact congrArg BitVec.toNat
      (State.memWriteBytes_outside s a bs b fun k hk e => h ⟨k, b, hk, e, rfl⟩)
  all_goals simp [State.component]

/-- A result and a flag change two registers at most. -/
theorem State.component_setResultAndFlag (x : Reg) (b : Byte) (f : Bool) {c : Component}
    (hx : c ≠ .reg x) (hf : c ≠ .reg 15) :
    (s.setResultAndFlag x b f).component c = s.component c :=
  (State.component_setV _ _ _ hf).trans (State.component_setV _ _ _ hx)

end Sys2Proof.Machine
end

