-- ==== Sys2Proof/Laws/Operations.lean ====
section
/-! SUPPORT. What each operation of the host can answer, said once (spec 00_scope.md R13 to R16). -/

namespace Sys2Proof.Machine

theorem perform_running {h : Session} (hr : h.Running) (op : Operation) :
    perform op h = performRunning op h := by simp [perform, show h.condition = none from hr]

theorem perform_stopped {h : Session} (hr : ¬ h.Running) (op : Operation) :
    perform op h = performStopped op h := by
  obtain ⟨c, hc⟩ := Option.ne_none_iff_exists'.mp hr
  simp [perform, hc]

/-- A Step of the host that answers a session: the machine stepped, or it reported a condition and the
fetch is all that happened. -/
theorem performStep_cases {h h' : Session} (e : performStep h = .next h') :
    (∃ t, step h.state = .next t ∧ h' = ⟨t, none, true⟩) ∨
    (∃ c, step h.state = .fault c ∧ h' = ⟨h.state.fetched, some c, true⟩) := by
  unfold performStep at e
  cases hs : step h.state with
  | next t => rw [hs] at e; cases e; exact .inl ⟨t, rfl, rfl⟩
  | fault c => rw [hs] at e; cases e; exact .inr ⟨c, rfl, rfl⟩
  | refused r => rw [hs] at e; cases e

/-- A load that answers a session has placed the image. -/
theorem performLoad_cases {h h' : Session} {image : List Byte} (e : performLoad h image = .next h') :
    h.started = false ∧ image.length ≤ 3584 ∧
      h' = { h with state := loadProgram h.state image } := by
  cases hs : h.started <;> simp only [performLoad, hs] at e
  · by_cases hl : image.length ≤ 3584
    · simp only [hl] at e; cases e; exact ⟨rfl, hl, by simp⟩
    · simp [hl] at e
  · simp at e

end Sys2Proof.Machine
end

