-- ==== Sys2Proof/Laws/PerInstr.lean ====
section
/-! SUPPORT. Facts about every instruction as syntax, one lemma per constructor. Family
EncodingFitsTable: the word the encoder emits is matched by the row of the opcode table that bears the
instruction's mnemonic (spec 30_encoding.md R77, R80). -/

namespace Sys2Proof.Laws.EncodingFitsTable

/-- The canonical word of `i` is matched by the row of its mnemonic. -/
def Statement (i : Instr) : Prop :=
  ∃ row ∈ opcodeTable, row.name = mnemonic i ∧ encode i &&& row.mask = row.value

/-! ### What the masks of R77 keep of each layout -/

theorem digits_family_and_key (a b c d : Nibble) : digits a b c d &&& 0xF00F = digits a 0 0 d := by
  refine BitVec.eq_of_getLsbD_eq fun k hk => ?_
  simp only [BitVec.getLsbD_and, digits_getLsbD]
  interval_cases k <;> simp

theorem digits_family (a b c d : Nibble) : digits a b c d &&& 0xF000 = digits a 0 0 0 := by
  refine BitVec.eq_of_getLsbD_eq fun k hk => ?_
  simp only [BitVec.getLsbD_and, digits_getLsbD]
  interval_cases k <;> simp

theorem digitsByte_family (a b : Nibble) (kk : Byte) :
    digitsByte a b kk &&& 0xF000 = digits a 0 0 0 := by
  refine BitVec.eq_of_getLsbD_eq fun k hk => ?_
  simp only [BitVec.getLsbD_and, digits_getLsbD, digitsByte_getLsbD]
  interval_cases k <;> simp

theorem digitsByte_family_and_key (a b : Nibble) (kk : Byte) :
    digitsByte a b kk &&& 0xF0FF = digitsByte a 0 kk := by
  refine BitVec.eq_of_getLsbD_eq fun k hk => ?_
  simp only [BitVec.getLsbD_and, digitsByte_getLsbD]
  interval_cases k <;> simp

theorem digitAddr_family (a : Nibble) (nnn : Addr) : digitAddr a nnn &&& 0xF000 = digits a 0 0 0 := by
  refine BitVec.eq_of_getLsbD_eq fun k hk => ?_
  simp only [BitVec.getLsbD_and, digits_getLsbD, digitAddr_getLsbD]
  interval_cases k <;> simp

/-! ### One lemma per constructor -/

theorem cls : Statement (Instr.cls) :=
  ⟨⟨"CLS", 0xF00F, 0x0000⟩, by decide, rfl, (digits_family_and_key _ _ _ _).trans rfl⟩

theorem ret : Statement (Instr.ret) :=
  ⟨⟨"RET", 0xF00F, 0x000E⟩, by decide, rfl, (digits_family_and_key _ _ _ _).trans rfl⟩

theorem jp (nnn : Addr) : Statement (Instr.jp nnn) :=
  ⟨⟨"JP_nnn", 0xF000, 0x1000⟩, by decide, rfl, (digitAddr_family _ _).trans rfl⟩

theorem call (nnn : Addr) : Statement (Instr.call nnn) :=
  ⟨⟨"CALL_nnn", 0xF000, 0x2000⟩, by decide, rfl, (digitAddr_family _ _).trans rfl⟩

theorem seImm (x : Reg) (kk : Byte) : Statement (Instr.seImm x kk) :=
  ⟨⟨"SE_Vx__kk", 0xF000, 0x3000⟩, by decide, rfl, (digitsByte_family _ _ _).trans rfl⟩

theorem sneImm (x : Reg) (kk : Byte) : Statement (Instr.sneImm x kk) :=
  ⟨⟨"SNE_Vx__kk", 0xF000, 0x4000⟩, by decide, rfl, (digitsByte_family _ _ _).trans rfl⟩

theorem seReg (x y : Reg) : Statement (Instr.seReg x y) :=
  ⟨⟨"SE_Vx__Vy", 0xF000, 0x5000⟩, by decide, rfl, (digits_family _ _ _ _).trans rfl⟩

theorem ldImm (x : Reg) (kk : Byte) : Statement (Instr.ldImm x kk) :=
  ⟨⟨"LD_Vx__kk", 0xF000, 0x6000⟩, by decide, rfl, (digitsByte_family _ _ _).trans rfl⟩

theorem addImm (x : Reg) (kk : Byte) : Statement (Instr.addImm x kk) :=
  ⟨⟨"ADD_Vx__kk", 0xF000, 0x7000⟩, by decide, rfl, (digitsByte_family _ _ _).trans rfl⟩

theorem ldReg (x y : Reg) : Statement (Instr.ldReg x y) :=
  ⟨⟨"LD_Vx__Vy", 0xF00F, 0x8000⟩, by decide, rfl, (digits_family_and_key _ _ _ _).trans rfl⟩

theorem orReg (x y : Reg) : Statement (Instr.orReg x y) :=
  ⟨⟨"OR_Vx__Vy", 0xF00F, 0x8001⟩, by decide, rfl, (digits_family_and_key _ _ _ _).trans rfl⟩

theorem andReg (x y : Reg) : Statement (Instr.andReg x y) :=
  ⟨⟨"AND_Vx__Vy", 0xF00F, 0x8002⟩, by decide, rfl, (digits_family_and_key _ _ _ _).trans rfl⟩

theorem xorReg (x y : Reg) : Statement (Instr.xorReg x y) :=
  ⟨⟨"XOR_Vx__Vy", 0xF00F, 0x8003⟩, by decide, rfl, (digits_family_and_key _ _ _ _).trans rfl⟩

theorem addReg (x y : Reg) : Statement (Instr.addReg x y) :=
  ⟨⟨"ADD_Vx__Vy", 0xF00F, 0x8004⟩, by decide, rfl, (digits_family_and_key _ _ _ _).trans rfl⟩

theorem subReg (x y : Reg) : Statement (Instr.subReg x y) :=
  ⟨⟨"SUB_Vx__Vy", 0xF00F, 0x8005⟩, by decide, rfl, (digits_family_and_key _ _ _ _).trans rfl⟩

theorem shr (x y : Reg) : Statement (Instr.shr x y) :=
  ⟨⟨"SHR_Vx", 0xF00F, 0x8006⟩, by decide, rfl, (digits_family_and_key _ _ _ _).trans rfl⟩

theorem subnReg (x y : Reg) : Statement (Instr.subnReg x y) :=
  ⟨⟨"SUBN_Vx__Vy", 0xF00F, 0x8007⟩, by decide, rfl, (digits_family_and_key _ _ _ _).trans rfl⟩

theorem shl (x y : Reg) : Statement (Instr.shl x y) :=
  ⟨⟨"SHL_Vx", 0xF00F, 0x800E⟩, by decide, rfl, (digits_family_and_key _ _ _ _).trans rfl⟩

theorem sneReg (x y : Reg) : Statement (Instr.sneReg x y) :=
  ⟨⟨"SNE_Vx__Vy", 0xF000, 0x9000⟩, by decide, rfl, (digits_family _ _ _ _).trans rfl⟩

theorem ldI (nnn : Addr) : Statement (Instr.ldI nnn) :=
  ⟨⟨"LD_I__nnn", 0xF000, 0xA000⟩, by decide, rfl, (digitAddr_family _ _).trans rfl⟩

theorem jpV0 (nnn : Addr) : Statement (Instr.jpV0 nnn) :=
  ⟨⟨"JP_V0__nnn", 0xF000, 0xB000⟩, by decide, rfl, (digitAddr_family _ _).trans rfl⟩

theorem rnd (x : Reg) (kk : Byte) : Statement (Instr.rnd x kk) :=
  ⟨⟨"RND_Vx__kk", 0xF000, 0xC000⟩, by decide, rfl, (digitsByte_family _ _ _).trans rfl⟩

theorem drw (x y : Reg) (n : Nat) : Statement (Instr.drw x y n) :=
  ⟨⟨"DRW_Vx__Vy__n", 0xF000, 0xD000⟩, by decide, rfl, (digits_family _ _ _ _).trans rfl⟩

theorem skp (x : Reg) : Statement (Instr.skp x) :=
  ⟨⟨"SKP_Vx", 0xF00F, 0xE00E⟩, by decide, rfl, (digits_family_and_key _ _ _ _).trans rfl⟩

theorem sknp (x : Reg) : Statement (Instr.sknp x) :=
  ⟨⟨"SKNP_Vx", 0xF00F, 0xE001⟩, by decide, rfl, (digits_family_and_key _ _ _ _).trans rfl⟩

theorem ldVxDt (x : Reg) : Statement (Instr.ldVxDt x) :=
  ⟨⟨"LD_Vx__DT", 0xF0FF, 0xF007⟩, by decide, rfl, (digitsByte_family_and_key _ _ _).trans rfl⟩

theorem ldVxK (x : Reg) : Statement (Instr.ldVxK x) :=
  ⟨⟨"LD_Vx__K", 0xF0FF, 0xF00A⟩, by decide, rfl, (digitsByte_family_and_key _ _ _).trans rfl⟩

theorem ldDtVx (x : Reg) : Statement (Instr.ldDtVx x) :=
  ⟨⟨"LD_DT__Vx", 0xF0FF, 0xF015⟩, by decide, rfl, (digitsByte_family_and_key _ _ _).trans rfl⟩

theorem ldStVx (x : Reg) : Statement (Instr.ldStVx x) :=
  ⟨⟨"LD_ST__Vx", 0xF0FF, 0xF018⟩, by decide, rfl, (digitsByte_family_and_key _ _ _).trans rfl⟩

theorem addI (x : Reg) : Statement (Instr.addI x) :=
  ⟨⟨"ADD_I__Vx", 0xF0FF, 0xF01E⟩, by decide, rfl, (digitsByte_family_and_key _ _ _).trans rfl⟩

theorem ldF (x : Reg) : Statement (Instr.ldF x) :=
  ⟨⟨"LD_F__Vx", 0xF0FF, 0xF029⟩, by decide, rfl, (digitsByte_family_and_key _ _ _).trans rfl⟩

theorem ldB (x : Reg) : Statement (Instr.ldB x) :=
  ⟨⟨"LD_B__Vx", 0xF0FF, 0xF033⟩, by decide, rfl, (digitsByte_family_and_key _ _ _).trans rfl⟩

theorem ldMemV (x : Reg) : Statement (Instr.ldMemV x) :=
  ⟨⟨"LD__I___Vx", 0xF0FF, 0xF055⟩, by decide, rfl, (digitsByte_family_and_key _ _ _).trans rfl⟩

theorem ldVMem (x : Reg) : Statement (Instr.ldVMem x) :=
  ⟨⟨"LD_Vx___I", 0xF0FF, 0xF065⟩, by decide, rfl, (digitsByte_family_and_key _ _ _).trans rfl⟩

end Sys2Proof.Laws.EncodingFitsTable
end

