-- ==== Sys2Proof/Tests/Slice0.lean ====
section
/-! SUPPORT. The model's own tests. Expected results are the spec's vectors (95_test_vectors.md, whose
ids are in the names) or words written out bit by bit from the encodings of 30_encoding.md R77. -/

namespace Sys2Proof.Tests

open Sys2Proof Sys2Proof.Machine

/-- The state after `Reset` with a word at 0x200, where the first Step fetches. -/
def start (w : Nat) : State := State.reset.withFetchWord 16 w

/-- `start w` with a font's bytes listed where `Reset` puts `FONT`: a state that holds that font,
whatever `Config.font` is. -/
def startWithFont (font : Vector Byte 80) (w : Nat) : State :=
  let s := start w
  s.setMem ((List.finRange 80).map (fun i => (i.val, font[i])) ++ s.mem)

/-- What is seen of a next state. -/
def seen {α : Type} (f : State → α) : StepResult → Option α
  | .next t => some (f t)
  | _ => none

/-- The condition a Step reports. -/
def reported : StepResult → Option Fault
  | .fault c => some c
  | _ => none

/-- The session part of an outcome. -/
def session : Host.Outcome Session Fault Refusal → Option Session
  | .next h => some h
  | _ => none

/-- The refusal an operation answers. -/
def refusal : Host.Outcome Session Fault Refusal → Option Refusal
  | .refused r => some r
  | _ => none

/-! ### Well-formedness: the one check refuses an ill-formed term -/

theorem test_wellFormed_refuses_sixteen_rows : Instr.wellFormed (.drw 1 2 16) = false := by decide
theorem test_wellFormed_accepts_fifteen_rows : Instr.wellFormed (.drw 1 2 15) = true := by decide

/-! ### Decoding: one word of each row, written out from R77 (fields of R72) -/

theorem test_decode_cls : decodeWord 0b0000000011100000#16 = some (.cls) := by decide
theorem test_decode_ret : decodeWord 0b0000000011101110#16 = some (.ret) := by decide
theorem test_decode_jp : decodeWord 0b0001101010111100#16 = some (.jp 0xABC) := by decide
theorem test_decode_call : decodeWord 0b0010001100000000#16 = some (.call 0x300) := by decide
theorem test_decode_seImm : decodeWord 0b0011000101000010#16 = some (.seImm 1 0x42) := by decide
theorem test_decode_sneImm : decodeWord 0b0100101011111111#16 = some (.sneImm 10 0xFF) := by decide
theorem test_decode_seReg : decodeWord 0b0101000100100000#16 = some (.seReg 1 2) := by decide
theorem test_decode_ldImm : decodeWord 0b0110000000001010#16 = some (.ldImm 0 0x0A) := by decide
theorem test_decode_addImm : decodeWord 0b0111111100000001#16 = some (.addImm 15 0x01) := by decide
theorem test_decode_ldReg : decodeWord 0b1000000100100000#16 = some (.ldReg 1 2) := by decide
theorem test_decode_orReg : decodeWord 0b1000000100100001#16 = some (.orReg 1 2) := by decide
theorem test_decode_andReg : decodeWord 0b1000000100100010#16 = some (.andReg 1 2) := by decide
theorem test_decode_xorReg : decodeWord 0b1000111100010011#16 = some (.xorReg 15 1) := by decide
theorem test_decode_addReg : decodeWord 0b1000000111110100#16 = some (.addReg 1 15) := by decide
theorem test_decode_subReg : decodeWord 0b1000000100100101#16 = some (.subReg 1 2) := by decide
theorem test_decode_shr : decodeWord 0b1000000100100110#16 = some (.shr 1 2) := by decide
theorem test_decode_subnReg : decodeWord 0b1000000100100111#16 = some (.subnReg 1 2) := by decide
theorem test_decode_shl : decodeWord 0b1000000100001110#16 = some (.shl 1 0) := by decide
theorem test_decode_sneReg : decodeWord 0b1001000100100000#16 = some (.sneReg 1 2) := by decide
theorem test_decode_ldI : decodeWord 0b1010111111111111#16 = some (.ldI 0xFFF) := by decide
theorem test_decode_jpV0 : decodeWord 0b1011001100000000#16 = some (.jpV0 0x300) := by decide
theorem test_decode_rnd : decodeWord 0b1100000100001111#16 = some (.rnd 1 0x0F) := by decide
theorem test_decode_drw : decodeWord 0b1101111100010101#16 = some (.drw 15 1 5) := by decide
theorem test_decode_skp : decodeWord 0b1110001110011110#16 = some (.skp 3) := by decide
theorem test_decode_sknp : decodeWord 0b1110001110100001#16 = some (.sknp 3) := by decide
theorem test_decode_ldVxDt : decodeWord 0b1111001000000111#16 = some (.ldVxDt 2) := by decide
theorem test_decode_ldVxK : decodeWord 0b1111010100001010#16 = some (.ldVxK 5) := by decide
theorem test_decode_ldDtVx : decodeWord 0b1111000000010101#16 = some (.ldDtVx 0) := by decide
theorem test_decode_ldStVx : decodeWord 0b1111000000011000#16 = some (.ldStVx 0) := by decide
theorem test_decode_addI : decodeWord 0b1111000100011110#16 = some (.addI 1) := by decide
theorem test_decode_ldF : decodeWord 0b1111000000101001#16 = some (.ldF 0) := by decide
theorem test_decode_ldB : decodeWord 0b1111000000110011#16 = some (.ldB 0) := by decide
theorem test_decode_ldMemV : decodeWord 0b1111001001010101#16 = some (.ldMemV 2) := by decide
theorem test_decode_ldVMem : decodeWord 0b1111001001100101#16 = some (.ldVMem 2) := by decide

/-- Fields of two bytes, the high byte first (R52), and the bytes after them are left. -/
theorem test_decode_bytes :
    (match decode [0xD1, 0x23, 0x45] with
      | .ok p => some p
      | .error _ => none) = some (.drw 1 2 3, [0x45]) := by decide
theorem test_decode_truncated :
    (match decode [0xD1] with
      | .ok _ => none
      | .error e => some e) = some .truncated := by decide
theorem test_decodeTableWord_numbers_bits_of_the_word :
    decodeTableWord 16 0x6A55 = some (.ldImm 10 0x55) := by decide
/-- T6, T7, F10, K7, K11, K20, K21: alias words (R79). -/
theorem test_decode_aliases :
    [0x0000#16, 0x0230#16, 0x012E#16, 0x512F#16, 0x9127#16, 0xE30E#16, 0xE3F1#16].map decodeWord =
      [some .cls, some .cls, some .ret, some (.seReg 1 2), some (.sneReg 1 2), some (.skp 3),
        some (.sknp 3)] := by decide
/-- T8 to T20: unimplemented words (R81). -/
theorem test_decode_unimplemented :
    [0x0001#16, 0x00E1#16, 0x0123#16, 0x8128#16, 0x812F#16, 0xE19D#16, 0xE000#16, 0xE39F#16,
      0xF000#16, 0xF11F#16, 0xF156#16, 0xFFFF#16, 0xF090#16].map decodeWord =
      List.replicate 13 none := by decide

/-! ### Fetch and conditions -/

theorem test_T1_fetch :
    seen (fun t => (t.getV 1, t.pc, t.opcode)) (step (start 0x6142)) = some (0x42, 0x202, 0x6142) := by decide
theorem test_T3_fetch_wraps :
    seen (fun t => (t.getV 1, t.pc)) (step ((State.reset.setMem [(0, 0x42), (0xFFF, 0x61)]).setPc 0xFFFF)) = some (0x42, 0x0001) := by decide
theorem test_T4_fetch_odd :
    seen (fun t => (t.getV 10, t.pc)) (step ((State.reset.memWriteBytes 0x300 [0x00, 0x6A, 0x55]).setPc 0x301)) = some (0x55, 0x303) := by decide
theorem test_T8_unimplemented :
    reported (step (start 0x0001)) = some (.unimplementedInstruction 0x0001) := by decide
/-- T11: the state at a condition has `opcode` latched and `pc` advanced, nothing else (R176). -/
theorem test_T11_state_at_condition :
    (session (perform .step ⟨(start 0x8128).setV 1 5, none, false⟩)).map
      (fun h => (h.condition, h.state.pc, h.state.opcode, h.state.getV 1)) =
      some (some (.unimplementedInstruction 0x8128), 0x202, 0x8128, 5) := by decide

/-! ### Control flow -/

theorem test_F1_jp :
    seen (fun t => t.pc) (step (start 0x1ABC)) = some (0xABC : Word) := by decide
theorem test_F5_call_last_cell :
    seen (fun t => (t.pc, t.sp, t.stack[15])) (step ((start 0x2300).setSp 15)) = some (0x300, 16, 0x202) := by decide
theorem test_F6_call_overflow : reported (step ((start 0x2300).setSp 16)) = some .stackOverflow := by decide
theorem test_F12_ret :
    seen (fun t => (t.pc, t.sp, t.stack[15])) (step (((start 0x00EE).setSp 16).setCell 15 0x222)) = some (0x222, 15, 0x222) := by decide
theorem test_F9_ret_underflow : reported (step (start 0x00EE)) = some .stackUnderflow := by decide
theorem test_F14_jpV0 :
    seen (fun t => t.pc) (step ((start 0xBFFF).setV 0 2)) = some (0x1001 : Word) := by decide

/-! ### Skips -/

theorem test_K1_seImm :
    seen (fun t => t.pc) (step ((start 0x3142).setV 1 0x42)) = some (0x204 : Word) := by decide
theorem test_K22_seImm_wraps :
    seen (fun t => t.pc) (step ((State.reset.memWriteBytes 0xFFE [0x30, 0x00]).setPc 0xFFFE)) = some (0x0002 : Word) := by decide
theorem test_K3_sneImm :
    seen (fun t => t.pc) (step ((start 0x4142).setV 1 0x42)) = some (0x202 : Word) := by decide
theorem test_K6_seReg :
    seen (fun t => t.pc) (step (((start 0x5120).setV 1 7).setV 2 8)) = some (0x202 : Word) := by decide
theorem test_K9_sneReg :
    seen (fun t => t.pc) (step (((start 0x9120).setV 1 7).setV 2 8)) = some (0x204 : Word) := by decide
theorem test_K15_skp :
    seen (fun t => t.pc) (step ((((start 0xE39E).setV 3 5).setKey 4 true).setKey 6 true)) = some (0x202 : Word) := by decide
theorem test_K18_skp_mod_16 :
    seen (fun t => t.pc) (step (((start 0xE39E).setV 3 0x1A).setKey 10 true)) = some (0x204 : Word) := by decide
theorem test_K19_sknp_mod_16 :
    seen (fun t => t.pc) (step (((start 0xE3A1).setV 3 0xF5).setKey 5 true)) = some (0x202 : Word) := by decide

/-! ### Loads and arithmetic -/

theorem test_A2_ldImm_VF :
    seen (fun t => t.getV 15) (step (start 0x6F07)) = some (0x07 : Byte) := by decide
theorem test_A4_addImm_no_flag :
    seen (fun t => (t.getV 1, t.getV 15)) (step (((start 0x7101).setV 1 0xFF).setV 15 0)) = some (0x00, 0x00) := by decide
theorem test_A7_ldReg :
    seen (fun t => (t.getV 1, t.getV 2)) (step (((start 0x8120).setV 1 1).setV 2 0x7E)) = some (0x7E, 0x7E) := by decide
theorem test_A9_orReg :
    seen (fun t => (t.getV 1, t.getV 15)) (step ((((start 0x8121).setV 1 0x0F).setV 2 0xF0).setV 15 1)) = some (0xFF, 1) := by decide
theorem test_A10_andReg :
    seen (fun t => (t.getV 1, t.getV 15)) (step ((((start 0x8122).setV 1 0x3C).setV 2 0x0F).setV 15 1)) = some (0x0C, 1) := by decide
theorem test_A11_xorReg :
    seen (fun t => (t.getV 1, t.getV 15)) (step ((((start 0x8123).setV 1 0xFF).setV 2 0x0F).setV 15 1)) = some (0xF0, 1) := by decide
theorem test_A16_addReg :
    seen (fun t => (t.getV 1, t.getV 15)) (step (((start 0x8124).setV 1 0xFF).setV 2 1)) = some (0, 1) := by decide
theorem test_A19_addReg_VF_last :
    seen (fun t => (t.getV 1, t.getV 15)) (step (((start 0x8F14).setV 15 0xFF).setV 1 2)) = some (2, 1) := by decide
theorem test_A26_subReg_equal :
    seen (fun t => (t.getV 1, t.getV 15)) (step ((((start 0x8125).setV 1 7).setV 2 7).setV 15 1)) = some (0, 0) := by decide
theorem test_A31_subReg_old_VF :
    seen (fun t => (t.getV 1, t.getV 15)) (step (((start 0x81F5).setV 1 9).setV 15 1)) = some (8, 1) := by decide
theorem test_A46_shr_ignores_y :
    seen (fun t => (t.getV 1, t.getV 2, t.getV 15)) (step ((((start 0x8126).setV 1 4).setV 2 0xFF).setV 15 1)) = some (2, 0xFF, 0) := by decide
theorem test_A47_shr_VF :
    seen (fun t => t.getV 15) (step ((start 0x8F06).setV 15 3)) = some (1 : Byte) := by decide
theorem test_A35_subnReg :
    seen (fun t => (t.getV 1, t.getV 15)) (step ((((start 0x8127).setV 1 7).setV 2 5).setV 15 1)) = some (0xFE, 0) := by decide
theorem test_A40_subnReg_old_VF :
    seen (fun t => (t.getV 1, t.getV 15)) (step (((start 0x81F7).setV 1 3).setV 15 9)) = some (6, 1) := by decide
theorem test_A49_shl :
    seen (fun t => (t.getV 1, t.getV 15)) (step ((start 0x810E).setV 1 0x81)) = some (2, 1) := by decide
theorem test_A50_shl_no_carry :
    seen (fun t => (t.getV 1, t.getV 15)) (step (((start 0x810E).setV 1 0x40).setV 15 1)) = some (0x80, 0) := by decide
/-- A57: whatever the draw is, `RND V1, 0x00` gives 0; the next draw is a fresh one (R134). -/
theorem test_A57_rnd :
    seen (fun t => (t.getV 1, t.draws)) (step ((start 0xC100).setV 1 0xFF)) = some (0, 1) := by
  have h : (0x00#8 &&& Config.draw8 0) = 0 := by simp
  exact congrArg (fun d : Byte => some (d, 1)) h

/-! ### Index register and memory -/

theorem test_M2_ldI :
    seen (fun t => t.i) (step ((start 0xAFFF).setI 0x1234)) = some (0x0FFF : Word) := by decide
theorem test_M7_addI_wraps :
    seen (fun t => (t.i, t.getV 15)) (step (((start 0xF11E).setI 0xFFFF).setV 1 0xFF)) = some (0x00FE, 0) := by decide
theorem test_M13_ldF_whole_byte :
    seen (fun t => t.i) (step ((start 0xF029).setV 0 0xFF)) = some (0x04FB : Word) := by decide
theorem test_M20_ldB_wraps :
    seen (fun t => (t.memRead 0xFFF, t.memRead 0, t.memRead 1, t.i)) (step (((start 0xF033).setV 0 0x7B).setI 0x0FFF)) = some (1, 2, 3, 0x0FFF) := by
  have h : step (((start 0xF033).setV 0 0x7B).setI 0x0FFF) =
      .next ((((start 0xF033).setV 0 0x7B).setI 0x0FFF).fetched.memWriteBytes 0x0FFF [1, 2, 3]) := rfl
  rw [h]
  simp [seen, State.memWriteBytes, State.memRead_memWrite]
  rfl
theorem test_M17_ldB :
    seen (fun t => (t.memReadBytes 0x300 3, Memory.wf t.mem)) (step (((start 0xF033).setV 0 0x07).setI 0x300 |>.memWriteBytes 0x300 [9, 9, 9])) = some ([0, 0, 7], true) := by decide
theorem test_M25_ldMemV_wraps :
    seen (fun t => (t.memReadBytes 0xFFE 4, t.i)) (step (((((start 0xF355).setV 0 1).setV 1 2).setV 2 3).setV 3 4 |>.setI 0x0FFE)) = some ([1, 2, 3, 4], 0x0FFE) := by
  have h : step (((((start 0xF355).setV 0 1).setV 1 2).setV 2 3).setV 3 4 |>.setI 0x0FFE) =
      .next ((((((start 0xF355).setV 0 1).setV 1 2).setV 2 3).setV 3 4 |>.setI 0x0FFE).fetched.memWriteBytes
        0x0FFE [1, 2, 3, 4]) := rfl
  rw [h]
  simp [seen, State.memWriteBytes, State.memReadBytes, State.memRead_memWrite, List.range, List.range.loop]
  rfl
theorem test_M24_ldMemV_inclusive :
    seen (fun t => (t.memRead 0x400, t.memRead 0x401)) (step (((start 0xF055).setV 0 0x11).setV 1 0x22 |>.setI 0x400)) = some (0x11, 0) := by decide
theorem test_M28_ldVMem :
    seen (fun t => (t.getV 0, t.getV 1, t.getV 2, t.getV 3, t.i)) (step (((start 0xF265).setI 0x300).setV 3 0x77 |>.memWriteBytes 0x300 [2, 5, 4, 9])) = some (2, 5, 4, 0x77, 0x300) := by decide
theorem test_M30_ldVMem_wraps_default_font :
    seen (fun t => (t.getV 0, t.getV 1, t.getV 2)) (step (((startWithFont defaultFont 0xF265).setI 0x0FFF).memWrite 0xFFF 0x77)) = some (0x77, 0xF0, 0x90) := by decide

/-! ### Display -/

theorem test_G1_cls :
    seen (fun t => (t.gfx == blankDisplay, t.getV 15)) (step (((start 0x00E0).setGfx (Vector.replicate 32 (BitVec.allOnes 64))).setV 15 5)) = some (true, 5) := by decide
set_option maxRecDepth 2000 in
theorem test_G6_drw_wraps :
    seen (fun t => (t.gfx[31], t.gfx[0], t.getV 15)) (step (((((start 0xD122).setV 1 0x3E).setV 2 0x1F).setI 0x300).memWriteBytes 0x300 [0xF0, 0x0F])) = some (0xC000000000000003, 0x3C, 0) := by decide
theorem test_G11_drw_collides :
    seen (fun t => (t.gfx[0], t.getV 15)) (step (((start 0xD121).setI 0x300).memWrite 0x300 0xC0 |>.setGfx (setPixel blankDisplay 1 0 true))) = some (1, 1) := by decide

set_option maxRecDepth 4000 in
/-- S8a, G19: under the default font the word `D0 05` draws the glyph of 0 in the top-left corner; bit c
of a row is its pixel in column c, so that `####` is 0xF and `#..#` is 9. -/
theorem test_S8a_default_font :
    seen (fun t => ((List.finRange 6).map (fun k => t.gfx[k.val]), t.getV 15, t.pc)) (step (startWithFont defaultFont 0xD005)) = some ([0xF, 9, 9, 9, 0xF, 0], 0, 0x202) := by decide

/-! ### Timers and key wait -/

theorem test_W1_ldVxDt :
    seen (fun t => (t.getV 2, t.dt)) (step ((start 0xF207).setDt 0x1C)) = some (0x1C, 0x1C) := by decide
theorem test_W4_ldDtVx :
    seen (fun t => t.dt) (step ((start 0xF015).setDt 9)) = some (0 : Byte) := by decide
theorem test_W5_ldStVx :
    seen (fun t => (t.st, t.dt)) (step ((start 0xF018).setV 0 0x10)) = some (0x10, 0) := by decide
theorem test_W7_ldVxK_waits :
    seen (fun t => (t.pc, t.getV 5)) (step ((start 0xF50A).setV 5 0x77)) = some (0x200, 0x77) := by decide
theorem test_W10_ldVxK_lowest :
    seen (fun t => (t.pc, t.getV 5)) (step ((((start 0xF50A).setV 5 0x77).setKey 3 true).setKey 15 true)) = some (0x202, 3) := by decide

/-! ### The host's operations -/

/-- Q3: from DT = 3, ST = 1 a tick gives (2, 0); from (0, 0) nothing changes. -/
theorem test_Q3_timerTick :
    ((timerTick ((State.reset.setDt 3).setSt 1)).dt, (timerTick ((State.reset.setDt 3).setSt 1)).st,
      timerTick State.reset == State.reset) = (2, 0, true) := by decide
/-- R194: the load writes at 0x200 and nothing else. -/
theorem test_load_places_image :
    (session (perform (.load [0x60, 0x0A]) ⟨State.reset, none, false⟩)).map
      (fun h => (h.state.memReadBytes 0x1FF 4, h.state.pc)) =
      some ([0, 0x60, 0x0A, 0], 0x200) := by decide
theorem test_load_after_first_step_refused :
    refusal (perform (.load []) ⟨State.reset, none, true⟩) = some .loadAfterFirstStep := by decide
/-- R177: after a condition a Step has no meaning, and Reset has. -/
theorem test_only_reset_after_condition :
    (refusal (perform .step ⟨State.reset, some .stackUnderflow, true⟩),
      (session (perform .reset ⟨State.reset.setV 3 9, some .stackUnderflow, true⟩)).map
        (fun h => (h.state == State.reset, h.condition, h.started))) =
      (some .operationAfterCondition, some (true, none, false)) := by decide

end Sys2Proof.Tests
end

