-- ==== Sys2Proof/Tests/Witnesses.lean ====
section
/-! SUPPORT. For every statement of Certificates/Slice0/Obligations.lean that has hypotheses, a named
theorem that a concrete state and operands meet all of them together, at the boundary values of each
clause; test_words_of_each_encoding_clause has a word for every encoding clause. -/

namespace Sys2Proof.Tests

open Sys2Proof Sys2Proof.Machine

theorem witness_DecodeEncodeRoundTrip : Instr.WellFormed (.drw 15 15 15) := by decide

theorem witness_DecoderAgreesWithOpcodeTable :
    (⟨"LD_Vx___I", 0xF0FF, 0xF065⟩ : OpcodeRow) ∈ opcodeTable ∧
      0xFF65#16 &&& 0xF0FF = 0xF065 ∧ decodeWord 0xFF65#16 = some (.ldVMem 15) ∧
      mnemonic (.ldVMem 15) = "LD_Vx___I" := by decide

/-- One word for each encoding clause, the last at the top of its range. -/
theorem test_words_of_each_encoding_clause :
    [0x1FFF#16, 0x2FFF#16, 0x3FFF#16, 0x4FFF#16, 0x5FFF#16, 0x6FFF#16, 0x7FFF#16, 0x9FFF#16,
      0xAFFF#16, 0xBFFF#16, 0xCFFF#16, 0xDFFF#16].map opField =
      [0x1, 0x2, 0x3, 0x4, 0x5, 0x6, 0x7, 0x9, 0xA, 0xB, 0xC, 0xD] ∧
    [0x0FF0#16, 0x0FFE#16, 0x8FF0#16, 0x8FF1#16, 0x8FF2#16, 0x8FF3#16, 0x8FF4#16, 0x8FF5#16,
      0x8FF6#16, 0x8FF7#16, 0x8FFE#16, 0xEFFE#16, 0xEFF1#16].map (fun w => (opField w, nField w)) =
      [(0x0, 0x0), (0x0, 0xE), (0x8, 0x0), (0x8, 0x1), (0x8, 0x2), (0x8, 0x3), (0x8, 0x4),
        (0x8, 0x5), (0x8, 0x6), (0x8, 0x7), (0x8, 0xE), (0xE, 0xE), (0xE, 0x1)] ∧
    [0xFF07#16, 0xFF0A#16, 0xFF15#16, 0xFF18#16, 0xFF1E#16, 0xFF29#16, 0xFF33#16, 0xFF55#16,
      0xFF65#16].map (fun w => (opField w, kkField w)) =
      [(0xF, 0x07), (0xF, 0x0A), (0xF, 0x15), (0xF, 0x18), (0xF, 0x1E), (0xF, 0x29), (0xF, 0x33),
        (0xF, 0x55), (0xF, 0x65)] := by decide

theorem witness_AliasWordsDecodeAsCanonical : decodeWord 0xD12F#16 = some (.drw 1 2 15) := by decide

/-- Both clauses: a word that decodes and one that does not. -/
theorem witness_StepRunsDecodedInstruction :
    ((start 0x1ABC).memRead 0x200 ++ (start 0x1ABC).memRead 0x201 : Word) = 0x1ABC ∧
    decodeWord 0x1ABC = some (.jp 0xABC) ∧
    ((start 0x0001).memRead 0x200 ++ (start 0x0001).memRead 0x201 : Word) = 0x0001 ∧
    decodeWord 0x0001 = none := by decide

theorem witness_ConditionsLeavePreciseState :
    (⟨start 0x00EE, none, false⟩ : Session).Running ∧
    reported (step (start 0x00EE)) = some .stackUnderflow := by decide

/-- The invariant holds where each of the three conditions arises, and where none does. -/
theorem witness_StepConditionsHaveTheirCauses :
    ((start 0x00EE).Inv ∧ reported (step (start 0x00EE)) = some .stackUnderflow) ∧
    (((start 0x2300).setSp 16).Inv ∧
      reported (step ((start 0x2300).setSp 16)) = some .stackOverflow) ∧
    ((start 0xFFFF).Inv ∧
      reported (step (start 0xFFFF)) = some (.unimplementedInstruction 0xFFFF)) ∧
    ((start 0x2300).setSp 15).Inv ∧ reported (step ((start 0x2300).setSp 15)) = none := by decide

theorem witness_OnlyResetAfterCondition :
    ¬ (⟨State.reset, some .stackOverflow, true⟩ : Session).Running ∧
    Operation.timerTick ≠ .reset := by decide

theorem witness_StepKeepsInvariant :
    ((((start 0xFF55).setI 0x0FF0).setSp 16).setV 15 1).Inv ∧
    seen (fun t => (t.sp, t.memRead 0xFFF)) (step ((((start 0xFF55).setI 0x0FF0).setSp 16).setV 15 1)) =
      some (16, 1) := by decide

theorem witness_ReachableSessionsMeetInvariant :
    (session (performAll [.load [0x22, 0x00], .timerTick, .keyWrite 3 true, .step, .step]
      (sessionAfterReset State.reset))).map (fun h => (h.condition, h.state.sp)) =
      some (none, 2) := by decide

/-- A next state, and components the row names and does not name. -/
theorem witness_InstructionsChangeOnlyWhatTheirRowsName :
    seen (fun t => (t.pc, t.getV 3)) (exec (.jp 0x123) State.reset) = some (0x123, 0) ∧
    namedByRow (.jp 0x123) State.reset .pc ∧ ¬ namedByRow (.jp 0x123) State.reset (.reg 3) := by
  refine ⟨by decide, rfl, ?_⟩
  simp [namedByRow]

/-- Two different states that agree mod 4096. -/
theorem witness_HighAddressBitsAreUnobservable :
    SameMod4096 State.reset (((State.reset.setPc 0x1200).setI 0xF000).setCell 3 0x5000) := by
  constructor <;> first | rfl | decide

theorem witness_EveryOtherInstructionCompletes :
    Instr.drw 1 2 3 ≠ .ret ∧ ∀ nnn, Instr.drw 1 2 3 ≠ .call nnn := by
  refine ⟨by decide, fun nnn => ?_⟩
  simp

/-- The jump to its own address. -/
theorem witness_JumpLoadsAddress :
    (start 0x1200).pc.toNat = (0x200 : Addr).toNat ∧
    decodeWord (start 0x1200).fetchWord = some (.jp 0x200) := by decide

/-- The last free cell, and none free. -/
theorem witness_CallPushesReturnAddress :
    (State.reset.setSp 15).sp.toNat = (15 : Fin 16).val ∧ 16 ≤ (State.reset.setSp 16).sp.toNat ∧
    16 ≤ (State.reset.setSp 255).sp.toNat := by decide

/-- The last cell live, the first cell live, none live, and `sp` just above its range. -/
theorem witness_RetPopsReturnAddress :
    (State.reset.setSp 16).sp.toNat = (15 : Fin 16).val + 1 ∧
    (State.reset.setSp 1).sp.toNat = (0 : Fin 16).val + 1 ∧ State.reset.sp.toNat = 0 ∧
    16 < (State.reset.setSp 17).sp.toNat := by decide

theorem witness_RetUndoesCall :
    seen (fun t => ((t.setV 1 5).sp == t.sp, (t.setV 1 5).stack == t.stack))
      (exec (.call 0x300) State.reset) = some (true, true) := by decide

theorem witness_SkipsOnKeys :
    (10 : Fin 16).val = ((State.reset.setV 3 0x1A).getV 3).toNat % 16 := by decide

/-- For AddSetsCarry, SubtractSetsNoBorrow, ReverseSubtractSetsNoBorrow, ShiftRightSetsLowBit,
ShiftLeftSetsHighBit: a destination that is not VF. -/
theorem witness_flag_statements : (14 : Reg) ≠ 15 := by decide

theorem witness_RandomByteIsMasked : (0x0F#8).getLsbD 4 = false := by decide

theorem witness_RegistersAreStored_and_Loaded : (15 : Reg) ≤ 15 ∧ (0 : Reg) ≤ 0 := by decide

theorem witness_StoredWordIsFetchedNext :
    (15 : Reg).val = (14 : Reg).val + 1 ∧ (15 : Reg) ≤ 15 ∧
    (0x1FF5#16).toNat % 4096 = ((State.reset.setI 0xFE7).i.toNat + (14 : Reg).val) % 4096 := by decide

/-- The clauses of `draw_byte`: a column the row reaches, one it does not, and a collision. -/
theorem witness_DrawByteXorsOneRow :
    (column (60 + 7) = 3 ∧ ∀ j, j < 8 → ¬ ((4 : Fin 64) = column (60 + j) ∧ (0 : Fin 32) = line 0)) ∧
    (0x01#8).getLsbD (7 - 7) = true ∧ pixel (setPixel blankDisplay 3 0 true) (column (60 + 7)) (line 0) = true := by
  decide

/-- Fifteen rows; a collision, and none. -/
theorem witness_DrawSpriteXorsItsPixels :
    Instr.WellFormed (.drw 1 2 15) ∧
    (((start 0xD12F).setI 0x300).memWrite 0x300 0x80).memRead 0x300 = 0x80 ∧
    (0x80#8).getLsbD (7 - 0) = true ∧
    pixel (setPixel blankDisplay 0 0 true) (column (0 + 0)) (line (0 + 0)) = true ∧
    pixel blankDisplay (column (0 + 0)) (line (0 + 0)) = false := by decide

/-- Both fonts a claim can name: the parameter after `Reset`, and the spec's default in a state that
holds it; the last glyph; and a clear display. -/
theorem witness_font_statements :
    State.reset.HoldsFont Config.font ∧
    ((startWithFont defaultFont 0xD005).setV 3 15).HoldsFont defaultFont ∧
    (((startWithFont defaultFont 0xD005).setV 3 15).getV 3).toNat = 15 ∧ (15 : Nat) < 16 ∧
    ∀ c r, pixel blankDisplay c r = false := by
  refine ⟨State.reset_holdsFont, fun i => ?_, by decide, by decide, fun c r => ?_⟩
  · revert i; decide
  · exact pixel_blankDisplay c r

theorem witness_DrawTwiceRestoresDisplay :
    Instr.WellFormed (.drw 1 2 15) ∧ (1 : Reg) ≠ 15 ∧ (2 : Reg) ≠ 15 := by decide

/-- Keys 3 and 15 set: 3 is the lowest; and no key set. -/
theorem witness_KeyWaitCapturesLowestKey :
    ((State.reset.setKey 3 true).setKey 15 true).key[(3 : Fin 16)] = true ∧
    (∀ j : Fin 16, j < 3 → ((State.reset.setKey 3 true).setKey 15 true).key[j] = false) ∧
    ∀ k : Fin 16, State.reset.key[k] = false := by decide

theorem witness_KeyWaitSpinsUnchanged :
    decodeWord (start 0xF50A).fetchWord = some (.ldVxK 5) ∧
    ∀ k : Fin 16, (start 0xF50A).key[k] = false := by decide

theorem witness_TimerTickCountsDown : (sessionAfterReset (State.reset.setDt 3)).Running := by decide

theorem witness_TicksCommuteWithOtherInstructions :
    (∀ x, Instr.ldVxK 1 ≠ .ldVxDt x) ∧ (∀ x, Instr.ldVxK 1 ≠ .ldDtVx x) ∧
    ∀ x, Instr.ldVxK 1 ≠ .ldStVx x := by decide

/-- The longest image that fits, the shortest that does not, and a run that has started. -/
theorem witness_LoadPlacesProgram :
    (sessionAfterReset State.reset).Running ∧ (sessionAfterReset State.reset).started = false ∧
    (List.replicate 3584 (0 : Byte)).length ≤ 3584 ∧
    3584 < (List.replicate 3585 (0 : Byte)).length ∧
    (⟨State.reset, none, true⟩ : Session).started = true := by
  refine ⟨rfl, rfl, ?_, ?_, rfl⟩ <;> rw [List.length_replicate]
  omega

theorem witness_KeypadIsTheHosts :
    seen (fun t => t.key == State.reset.key) (step (start 0xF50A)) = some true := by decide

end Sys2Proof.Tests
end

section
/-! PROOFS. The family of spec 30_encoding.md: everything the decoder yields is well formed (R72, R74),
and what a Step does, by what the fetched word decodes to (R70, R81). -/

namespace Sys2Proof

theorem decodeFamily0_wellFormed {w : Word} {i : Instr} (hi : decodeFamily0 w = some i) :
    i.WellFormed := by
  unfold decodeFamily0 at hi
  split at hi <;> cases hi <;> rfl

theorem decodeFamily8_wellFormed {w : Word} {i : Instr} (hi : decodeFamily8 w = some i) :
    i.WellFormed := by
  unfold decodeFamily8 at hi
  split at hi <;> cases hi <;> rfl

theorem decodeFamilyE_wellFormed {w : Word} {i : Instr} (hi : decodeFamilyE w = some i) :
    i.WellFormed := by
  unfold decodeFamilyE at hi
  split at hi <;> cases hi <;> rfl

theorem decodeFamilyF_wellFormed {w : Word} {i : Instr} (hi : decodeFamilyF w = some i) :
    i.WellFormed := by
  unfold decodeFamilyF at hi
  split at hi <;> cases hi <;> rfl

/-- The row count of DRW, the one operand with a check, is read from a field of four bits (R74). -/
theorem drw_nField_wellFormed (x y : Reg) (w : Word) :
    Instr.WellFormed (.drw x y (nField w).toNat) :=
  decide_eq_true (nField w).isLt

/-- The decoder yields only instructions whose operands fit their fields. -/
theorem decodeWord_wellFormed {w : Word} {i : Instr} (hi : decodeWord w = some i) :
    i.WellFormed := by
  unfold decodeWord at hi
  split at hi
  case h_1 => exact decodeFamily0_wellFormed hi
  case h_9 => exact decodeFamily8_wellFormed hi
  case h_14 => cases hi; exact drw_nField_wellFormed _ _ w
  case h_15 => exact decodeFamilyE_wellFormed hi
  case h_16 => exact decodeFamilyF_wellFormed hi
  all_goals (cases hi <;> rfl)

end Sys2Proof

namespace Sys2Proof.Machine

/-- The Step of a word that selects an instruction is that instruction's effect after the fetch. -/
theorem step_of_decodeWord_eq_some {s : State} {i : Instr} (hi : decodeWord s.fetchWord = some i) :
    step s = exec i s.fetched := by
  simp only [step, hi]

/-- The Step of a word that selects none reports the word (R81, R170). -/
theorem step_of_decodeWord_eq_none {s : State} (hn : decodeWord s.fetchWord = none) :
    step s = .fault (.unimplementedInstruction s.fetchWord) := by
  simp only [step, hn, raise]

/-- Settles O7: the bytes at `pc` are the fetched word and the state written out is the fetched state,
so each clause is the Step's law for what the word decodes to. -/
theorem stepRunsDecodedInstruction : Obligations.StepRunsDecodedInstruction := by
  unfold Obligations.StepRunsDecodedInstruction
  intro s w hw
  obtain rfl : w = s.fetchWord := hw
  exact ⟨fun i hi => ⟨decodeWord_wellFormed hi, step_of_decodeWord_eq_some hi⟩,
    step_of_decodeWord_eq_none⟩

end Sys2Proof.Machine
end

section
/-! PROOFS. The family of spec 40_flow.md: the jump loads `pc` with its target, written over the advanced
`pc` and not added to it, so that a jump to its own address leaves `pc` where it was (R100). -/

namespace Sys2Proof.Machine

/-- A 12-bit address written to a 16-bit register keeps its value: bits 15:12 are 0. -/
@[simp] theorem zextAddr_toNat (nnn : Addr) : (zextAddr nnn).toNat = nnn.toNat :=
  BitVec.toNat_setWidth_of_le (by decide)

/-- A word whose number is a 12-bit address is that address, zero-extended. -/
theorem eq_zextAddr_of_toNat_eq {w : Word} {nnn : Addr} (hw : w.toNat = nnn.toNat) :
    w = zextAddr nnn :=
  BitVec.eq_of_toNat_eq (hw.trans (zextAddr_toNat nnn).symm)

/-- JP as an effect: `pc` gets the target. -/
theorem exec_jp (nnn : Addr) (s : State) : exec (.jp nnn) s = .next (s.setPc (zextAddr nnn)) := rfl

/-- The words of family 1 are the encodings of JP (R77). -/
theorem decodeWord_of_opField_eq_one {w : Word} (hw : opField w = 0x1) :
    decodeWord w = some (.jp (nnnField w)) := by
  unfold decodeWord
  rw [hw]
  rfl

/-- A write to `pc` after the fetch discards the advance: only the latched word is left of the fetch. -/
theorem State.fetched_setPc (s : State) (w : Word) :
    s.fetched.setPc w = (s.setOpcode s.fetchWord).setPc w := rfl

/-- Writing the value `pc` holds already changes nothing. -/
theorem State.setPc_self (s : State) : s.setPc s.pc = s := rfl

/-- Settles O18. The fixed point: the write of the target discards the fetch's advance, and the target
is the `pc` the Step began with. -/
theorem jumpLoadsAddress : Obligations.JumpLoadsAddress := by
  unfold Obligations.JumpLoadsAddress
  refine ⟨fun _ hw => decodeWord_of_opField_eq_one hw, fun nnn s => ?_, fun s nnn hpc hi => ?_⟩
  · exact ⟨_, exec_jp nnn s, zextAddr_toNat nnn, fun _ hc => s.component_setPc _ hc⟩
  · calc step s
        = exec (.jp nnn) s.fetched := step_of_decodeWord_eq_some hi
      _ = .next (s.fetched.setPc s.pc) := by rw [exec_jp, ← eq_zextAddr_of_toNat_eq hpc]
      _ = .next ((s.setOpcode s.fetchWord).setPc s.pc) := by rw [State.fetched_setPc]
      _ = .next (s.setOpcode s.fetchWord) := congrArg _ (State.setPc_self (s.setOpcode s.fetchWord))

end Sys2Proof.Machine
end

section
/-! PROOFS. The family of spec 41_skip.md: a skip adds 2 to the advanced `pc` exactly when its condition
holds and touches nothing else (R110), and SNE's condition is the complement of SE's (R111, R112). -/

namespace Sys2Proof.Machine

/-- SE Vx, kk as an effect: the skip on equality. -/
theorem exec_seImm (x : Reg) (kk : Byte) (s : State) :
    exec (.seImm x kk) s = .next (s.skipIf (s.getV x == kk)) := rfl

/-- SNE Vx, kk as an effect: the skip on the negated condition. -/
theorem exec_sneImm (x : Reg) (kk : Byte) (s : State) :
    exec (.sneImm x kk) s = .next (s.skipIf (!(s.getV x == kk))) := rfl

/-- The words of family 3 are the encodings of SE Vx, kk (R77). -/
theorem decodeWord_of_opField_eq_three {w : Word} (hw : opField w = 0x3) :
    decodeWord w = some (.seImm (xField w) (kkField w)) := by
  unfold decodeWord
  rw [hw]
  rfl

/-- The words of family 4 are the encodings of SNE Vx, kk (R77). -/
theorem decodeWord_of_opField_eq_four {w : Word} (hw : opField w = 0x4) :
    decodeWord w = some (.sneImm (xField w) (kkField w)) := by
  unfold decodeWord
  rw [hw]
  rfl

/-- The skip's frame (R110). -/
theorem State.onlyChanges_skipIf (s : State) (c : Bool) : OnlyChanges (· = .pc) s (s.skipIf c) :=
  fun _ hc => s.component_skipIf c hc

/-- A skip advances `pc` by 2, modulo the 16 bits of `pc` (R110). -/
theorem State.skipIf_pc_toNat (s : State) (c : Bool) :
    (s.skipIf c).pc.toNat = if c then (s.pc.toNat + 2) % 65536 else s.pc.toNat := by
  rw [State.skipIf_pc]
  cases c
  case false => rfl
  case true => exact BitVec.toNat_add s.pc 2

/-- The complementary skip advances `pc` exactly when the skip itself does not. -/
theorem State.skipIf_not_pc_toNat (s : State) (c : Bool) :
    (s.skipIf (!c)).pc.toNat = if c then s.pc.toNat else (s.pc.toNat + 2) % 65536 := by
  rw [State.skipIf_pc_toNat]
  cases c <;> rfl

/-- Settles O23: SE skips on the equality and SNE on its negation, so both clauses are the skip's law at
the one condition `V[x] == kk`. -/
theorem skipsOnImmediate : Obligations.SkipsOnImmediate := by
  unfold Obligations.SkipsOnImmediate
  refine ⟨fun _ hw => decodeWord_of_opField_eq_three hw,
    fun _ hw => decodeWord_of_opField_eq_four hw, fun x kk s => ⟨?_, ?_⟩⟩
  · refine ⟨_, exec_seImm x kk s, s.onlyChanges_skipIf _, ?_⟩
    simpa only [beq_iff_eq] using s.skipIf_pc_toNat (s.getV x == kk)
  · refine ⟨_, exec_sneImm x kk s, s.onlyChanges_skipIf _, ?_⟩
    simpa only [beq_iff_eq] using s.skipIf_not_pc_toNat (s.getV x == kk)

end Sys2Proof.Machine
end

section
/-! PROOFS. The family of spec 42_alu.md: the loads and ADD Vx, kk write one register and no flag (R123 to
R125); ADD, SUB and SUBN write a result and after it a flag, so that VF ends as the flag whatever x is
(R26, R129, R130, R132). -/

namespace Sys2Proof.Machine

/-! ### The words (R77, R78) -/

/-- The words of family 6 are the encodings of LD Vx, kk (R77). -/
theorem decodeWord_of_opField_eq_six {w : Word} (hw : opField w = 0x6) :
    decodeWord w = some (.ldImm (xField w) (kkField w)) := by
  unfold decodeWord
  rw [hw]
  rfl

/-- The words of family 7 are the encodings of ADD Vx, kk (R77). -/
theorem decodeWord_of_opField_eq_seven {w : Word} (hw : opField w = 0x7) :
    decodeWord w = some (.addImm (xField w) (kkField w)) := by
  unfold decodeWord
  rw [hw]
  rfl

/-- Family 8 is keyed by the low nibble alone, so a word of it decodes by the family's own table (R78). -/
theorem decodeWord_of_opField_eq_eight {w : Word} (hw : opField w = 0x8) :
    decodeWord w = decodeFamily8 w := by
  unfold decodeWord
  rw [hw]
  rfl

/-- 8xy0 (R77). -/
theorem decodeFamily8_of_nField_eq_zero {w : Word} (hn : nField w = 0x0) :
    decodeFamily8 w = some (.ldReg (xField w) (yField w)) := by
  unfold decodeFamily8
  rw [hn]
  rfl

/-- 8xy4 (R77). -/
theorem decodeFamily8_of_nField_eq_four {w : Word} (hn : nField w = 0x4) :
    decodeFamily8 w = some (.addReg (xField w) (yField w)) := by
  unfold decodeFamily8
  rw [hn]
  rfl

/-- 8xy5 (R77). -/
theorem decodeFamily8_of_nField_eq_five {w : Word} (hn : nField w = 0x5) :
    decodeFamily8 w = some (.subReg (xField w) (yField w)) := by
  unfold decodeFamily8
  rw [hn]
  rfl

/-- 8xy7 (R77). -/
theorem decodeFamily8_of_nField_eq_seven {w : Word} (hn : nField w = 0x7) :
    decodeFamily8 w = some (.subnReg (xField w) (yField w)) := by
  unfold decodeFamily8
  rw [hn]
  rfl

/-! ### The effects -/

/-- LD Vx, kk as an effect (R123). -/
theorem exec_ldImm (x : Reg) (kk : Byte) (s : State) :
    exec (.ldImm x kk) s = .next (s.setV x kk) := rfl

/-- ADD Vx, kk as an effect (R124). -/
theorem exec_addImm (x : Reg) (kk : Byte) (s : State) :
    exec (.addImm x kk) s = .next (s.setV x (sumOf (s.getV x) kk)) := rfl

/-- LD Vx, Vy as an effect (R125). -/
theorem exec_ldReg (x y : Reg) (s : State) :
    exec (.ldReg x y) s = .next (s.setV x (s.getV y)) := rfl

/-- ADD Vx, Vy as an effect (R129). -/
theorem exec_addReg (x y : Reg) (s : State) :
    exec (.addReg x y) s = .next (s.setResultAndFlag x (sumOf (s.getV x) (s.getV y))
      (carryOf (s.getV x) (s.getV y))) := rfl

/-- SUB Vx, Vy as an effect (R130). -/
theorem exec_subReg (x y : Reg) (s : State) :
    exec (.subReg x y) s = .next (s.setResultAndFlag x (differenceOf (s.getV x) (s.getV y))
      (noBorrowOf (s.getV x) (s.getV y))) := rfl

/-- SUBN Vx, Vy as an effect: SUB's, with the operands exchanged (R132). -/
theorem exec_subnReg (x y : Reg) (s : State) :
    exec (.subnReg x y) s = .next (s.setResultAndFlag x (differenceOf (s.getV y) (s.getV x))
      (noBorrowOf (s.getV y) (s.getV x))) := rfl

/-! ### The writes -/

/-- The frame of a write to one register: VF is in it unless it is the register written. -/
theorem State.onlyChanges_setV (s : State) (x : Reg) (b : Byte) :
    OnlyChanges (· = .reg x) s (s.setV x b) :=
  fun _ hc => s.component_setV x b hc

/-- The frame of a result and its flag (R26). -/
theorem State.onlyChanges_setResultAndFlag (s : State) (x : Reg) (b : Byte) (f : Bool) :
    OnlyChanges (fun c => c = .reg x ∨ c = .reg 15) s (s.setResultAndFlag x b f) := by
  intro c hc
  obtain ⟨hx, hf⟩ := not_or.mp hc
  exact s.component_setResultAndFlag x b f hx hf

/-- The carry as a number (R129). -/
theorem flagByte_carryOf_toNat (a b : Byte) :
    (flagByte (carryOf a b)).toNat = if a.toNat + b.toNat > 255 then 1 else 0 := by
  simp only [flagByte_toNat, carryOf, decide_eq_true_eq]

/-- The no-borrow flag as a number: the comparison is strict (R121). -/
theorem flagByte_noBorrowOf_toNat (a b : Byte) :
    (flagByte (noBorrowOf a b)).toNat = if a.toNat > b.toNat then 1 else 0 := by
  simp only [flagByte_toNat, noBorrowOf, decide_eq_true_eq]

/-- What SUB and SUBN share: an instruction that writes `a - b` and its no-borrow flag, the two operands
being whatever values the state before held (R130, R132). -/
theorem exec_subtraction {i : Instr} {s : State} {x : Reg} {a b : Byte}
    (hi : exec i s = .next (s.setResultAndFlag x (differenceOf a b) (noBorrowOf a b))) :
    ∃ t, exec i s = .next t ∧
      (x ≠ 15 → ((t.getV x).toNat : Int) = (a.toNat - b.toNat : Int) % 256) ∧
      ((t.getV 15).toNat = if a.toNat > b.toNat then 1 else 0) ∧
      OnlyChanges (fun c => c = .reg x ∨ c = .reg 15) s t := by
  refine ⟨_, hi, fun hx => ?_, ?_, s.onlyChanges_setResultAndFlag x _ _⟩
  · rw [State.setResultAndFlag_result s hx, differenceOf_toNat]
  · rw [State.setResultAndFlag_flag, flagByte_noBorrowOf_toNat]

/-! ### The obligations -/

/-- Settles O26: both loads are one register write, of `kk` and of the old V[y]. -/
theorem loadsWriteOneRegister : Obligations.LoadsWriteOneRegister := by
  unfold Obligations.LoadsWriteOneRegister
  refine ⟨fun _ hw => decodeWord_of_opField_eq_six hw, fun _ hw hn => ?_, fun x kk s => ?_,
    fun x y s => ?_⟩
  · rw [decodeWord_of_opField_eq_eight hw, decodeFamily8_of_nField_eq_zero hn]
  · exact ⟨_, exec_ldImm x kk s, s.getV_setV_same x kk, s.onlyChanges_setV x kk⟩
  · exact ⟨_, exec_ldReg x y s, s.getV_setV_same x _, s.onlyChanges_setV x _⟩

/-- Settles O27: the sum is one register write, so no flag is in its frame. -/
theorem addImmediateHasNoFlag : Obligations.AddImmediateHasNoFlag := by
  unfold Obligations.AddImmediateHasNoFlag
  refine ⟨fun _ hw => decodeWord_of_opField_eq_seven hw, fun x kk s => ?_⟩
  refine ⟨_, exec_addImm x kk s, ?_, s.onlyChanges_setV x _⟩
  rw [State.getV_setV_same, sumOf_toNat]

/-- Settles O29: with x = 15 the carry is written over the sum. -/
theorem addSetsCarry : Obligations.AddSetsCarry := by
  unfold Obligations.AddSetsCarry
  refine ⟨fun _ hw hn => ?_, fun x y s => ?_⟩
  · rw [decodeWord_of_opField_eq_eight hw, decodeFamily8_of_nField_eq_four hn]
  · refine ⟨_, exec_addReg x y s, fun hx => ?_, ?_, s.onlyChanges_setResultAndFlag x _ _⟩
    · rw [State.setResultAndFlag_result s hx, sumOf_toNat]
    · rw [State.setResultAndFlag_flag, flagByte_carryOf_toNat]

/-- Settles O30: the subtraction of V[y] from V[x]. -/
theorem subtractSetsNoBorrow : Obligations.SubtractSetsNoBorrow := by
  unfold Obligations.SubtractSetsNoBorrow
  refine ⟨fun _ hw hn => ?_, fun x y s => exec_subtraction (exec_subReg x y s)⟩
  rw [decodeWord_of_opField_eq_eight hw, decodeFamily8_of_nField_eq_five hn]

/-- Settles O31: the same subtraction with the operands exchanged. -/
theorem reverseSubtractSetsNoBorrow : Obligations.ReverseSubtractSetsNoBorrow := by
  unfold Obligations.ReverseSubtractSetsNoBorrow
  refine ⟨fun _ hw hn => ?_, fun x y s => exec_subtraction (exec_subnReg x y s)⟩
  rw [decodeWord_of_opField_eq_eight hw, decodeFamily8_of_nField_eq_seven hn]

end Sys2Proof.Machine
end

section
/-! PROOFS. The family of spec 43_index_memory.md: LD I, nnn is one write of I, and LD B stores the three
digits at I with each address reduced on its own (R51, R140, R143). -/

namespace Sys2Proof.Machine

/-! ### The words (R77, R78) -/

/-- The words of family A are the encodings of LD I, nnn (R77). -/
theorem decodeWord_of_opField_eq_ten {w : Word} (hw : opField w = 0xA) :
    decodeWord w = some (.ldI (nnnField w)) := by
  unfold decodeWord
  rw [hw]
  rfl

/-- Family F is keyed by the low byte alone, so a word of it decodes by the family's own table (R78). -/
theorem decodeWord_of_opField_eq_fifteen {w : Word} (hw : opField w = 0xF) :
    decodeWord w = decodeFamilyF w := by
  unfold decodeWord
  rw [hw]
  rfl

/-- Fx33 (R77). -/
theorem decodeFamilyF_of_kkField_eq_0x33 {w : Word} (hk : kkField w = 0x33) :
    decodeFamilyF w = some (.ldB (xField w)) := by
  unfold decodeFamilyF
  rw [hk]
  rfl

/-! ### The effects -/

/-- LD I, nnn as an effect (R140). -/
theorem exec_ldI (nnn : Addr) (s : State) : exec (.ldI nnn) s = .next (s.setI (zextAddr nnn)) := rfl

/-- LD B, Vx as an effect: one store of the three digits, from I (R143). -/
theorem exec_ldB (x : Reg) (s : State) :
    exec (.ldB x) s = .next (s.memWriteBytes s.i.toNat (decimalDigits (s.getV x))) := rfl

/-! ### The writes -/

/-- The frame of a write to I. -/
theorem State.onlyChanges_setI (s : State) (w : Word) : OnlyChanges (· = .index) s (s.setI w) :=
  fun _ hc => s.component_setI w hc

/-- The frame of a store of bytes: the addresses stored to, each reduced mod 4096 (R51). -/
theorem State.onlyChanges_memWriteBytes (s : State) (a : Nat) (bs : List Byte) :
    OnlyChanges (inBytes a bs.length) s (s.memWriteBytes a bs) :=
  fun _ hc => s.component_memWriteBytes a bs hc

@[simp] theorem decimalDigits_length (b : Byte) : (decimalDigits b).length = 3 := rfl

/-- Each of the three digits fits its byte, so no reduction mod 256 is left in it (R143). -/
theorem decimalDigits_map_toNat (b : Byte) :
    (decimalDigits b).map BitVec.toNat = [b.toNat / 100, b.toNat / 10 % 10, b.toNat % 10] := by
  have hb : b.toNat < 256 := b.isLt
  have hundreds : b.toNat / 100 < 256 := by omega
  have tens : b.toNat / 10 % 10 < 256 := by omega
  have ones : b.toNat % 10 < 256 := by omega
  simp only [decimalDigits, List.map_cons, List.map_nil, BitVec.toNat_ofNat,
    Nat.mod_eq_of_lt, hundreds, tens, ones]

/-- After the store of the digits of `b` from `a`, the byte at `a + k` reads as digit k. -/
theorem State.memWriteBytes_decimalDigits_read (s : State) (a : Nat) (b : Byte) (k : Nat) (hk : k < 3) :
    ((s.memWriteBytes a (decimalDigits b)).memRead (a + k)).toNat =
      [b.toNat / 100, b.toNat / 10 % 10, b.toNat % 10][k] := by
  calc ((s.memWriteBytes a (decimalDigits b)).memRead (a + k)).toNat
      = (decimalDigits b)[k].toNat :=
        congrArg BitVec.toNat (s.memWriteBytes_inside a (decimalDigits b) (by simp) k hk)
    _ = ((decimalDigits b).map BitVec.toNat)[k] := (List.getElem_map BitVec.toNat).symm
    _ = [b.toNat / 100, b.toNat / 10 % 10, b.toNat % 10][k] := by
        simp only [decimalDigits_map_toNat]

/-! ### The obligations -/

/-- Settles O35: the operand is zero-extended, so the one write leaves bits 15:12 of I at 0. -/
theorem loadIndexZeroExtends : Obligations.LoadIndexZeroExtends := by
  unfold Obligations.LoadIndexZeroExtends
  refine ⟨fun _ hw => decodeWord_of_opField_eq_ten hw, fun nnn s => ?_⟩
  exact ⟨_, exec_ldI nnn s, zextAddr_toNat nnn, s.onlyChanges_setI _⟩

/-- Settles O38: the three reads are the store's law at its three offsets, and the frame is the store's. -/
theorem decimalDigitsAreStored : Obligations.DecimalDigitsAreStored := by
  unfold Obligations.DecimalDigitsAreStored
  refine ⟨fun _ hw hk => ?_, fun x s => ?_⟩
  · rw [decodeWord_of_opField_eq_fifteen hw, decodeFamilyF_of_kkField_eq_0x33 hk]
  · have digit := s.memWriteBytes_decimalDigits_read s.i.toNat (s.getV x)
    exact ⟨_, exec_ldB x s, digit 0 (by decide), digit 1 (by decide), digit 2 (by decide),
      s.onlyChanges_memWriteBytes _ (decimalDigits (s.getV x))⟩

end Sys2Proof.Machine
end

section
/-! PROOFS. The family of spec 44_display.md: `draw_byte` is the pixel loop over the eight bits of its
byte, from the reduced coordinates (R151), so each of its laws is the loop's at those bits. -/

namespace Sys2Proof.Machine

/-- Reducing the start column first does not move a later column, which wraps anyway (R151). -/
theorem column_mod_add (n j : Nat) : column (n % 64 + j) = column (n + j) :=
  Fin.ext (Nat.mod_add_mod n 64 j)

/-- The pixels `draw_byte` reaches. -/
theorem drawByte_inside (g : Display) (xc yc : Nat) (b : Byte) {j : Nat} (hj : j < 8) :
    pixel (drawByte g xc yc b).1 (column (xc + j)) (line yc) =
      (pixel g (column (xc + j)) (line yc) ^^ b.getLsbD (7 - j)) := by
  have loop := drawBits_inside g (xc % 64) (line yc) (spriteBits b) 0 (by simp) j (by simpa using hj)
  rwa [Nat.zero_add, column_mod_add, spriteBits_getElem] at loop

/-- The pixels `draw_byte` does not reach: those of the other rows, and those of its own row in the
other 56 columns. -/
theorem drawByte_outside (g : Display) (xc yc : Nat) (b : Byte) {c : Fin 64} {r : Fin 32}
    (h : ∀ j, j < 8 → ¬ (c = column (xc + j) ∧ r = line yc)) :
    pixel (drawByte g xc yc b).1 c r = pixel g c r := by
  by_cases hr : r = line yc
  · subst hr
    refine drawBits_outside g (xc % 64) (line yc) (spriteBits b) 0 c fun j hj hc => ?_
    rw [Nat.zero_add, column_mod_add] at hc
    exact h j hj ⟨hc, rfl⟩
  · exact drawBits_other_row g (xc % 64) (line yc) (spriteBits b) 0 c hr

/-- The collision bit of `draw_byte`. -/
theorem drawByte_hit (g : Display) (xc yc : Nat) (b : Byte) :
    (drawByte g xc yc b).2 = true ↔
      ∃ j, j < 8 ∧ b.getLsbD (7 - j) = true ∧ pixel g (column (xc + j)) (line yc) = true := by
  have loop := drawBits_hit g (xc % 64) (line yc) (spriteBits b) 0 (by simp)
  simp only [Nat.zero_add, column_mod_add, spriteBits_getElem] at loop
  simpa only [drawByte, spriteBits_length, exists_prop] using loop

/-- Settles O43: the three laws of `draw_byte`, which hold for a sprite row across the right edge too
because its eight columns stay distinct mod 64. -/
theorem drawByteXorsOneRow : Obligations.DrawByteXorsOneRow := by
  unfold Obligations.DrawByteXorsOneRow
  intro g xc yc b
  exact ⟨fun _ hj => drawByte_inside g xc yc b hj, fun _ _ h => drawByte_outside g xc yc b h,
    drawByte_hit g xc yc b⟩

end Sys2Proof.Machine
end

section
/-! PROOFS. The family of spec 45_timer_key.md: the three timer instructions each move one byte (R160 to
R162), and a tick writes the two counters, each down by 1 and floored at 0 (R165). -/

namespace Sys2Proof.Machine

/-! ### The words (R77, R78) -/

/-- Fx07 (R77). -/
theorem decodeFamilyF_of_kkField_eq_0x07 {w : Word} (hk : kkField w = 0x07) :
    decodeFamilyF w = some (.ldVxDt (xField w)) := by
  unfold decodeFamilyF
  rw [hk]
  rfl

/-- Fx15 (R77). -/
theorem decodeFamilyF_of_kkField_eq_0x15 {w : Word} (hk : kkField w = 0x15) :
    decodeFamilyF w = some (.ldDtVx (xField w)) := by
  unfold decodeFamilyF
  rw [hk]
  rfl

/-- Fx18 (R77). -/
theorem decodeFamilyF_of_kkField_eq_0x18 {w : Word} (hk : kkField w = 0x18) :
    decodeFamilyF w = some (.ldStVx (xField w)) := by
  unfold decodeFamilyF
  rw [hk]
  rfl

/-! ### The effects -/

/-- LD Vx, DT as an effect (R160). -/
theorem exec_ldVxDt (x : Reg) (s : State) : exec (.ldVxDt x) s = .next (s.setV x s.dt) := rfl

/-- LD DT, Vx as an effect (R161). -/
theorem exec_ldDtVx (x : Reg) (s : State) : exec (.ldDtVx x) s = .next (s.setDt (s.getV x)) := rfl

/-- LD ST, Vx as an effect (R162). -/
theorem exec_ldStVx (x : Reg) (s : State) : exec (.ldStVx x) s = .next (s.setSt (s.getV x)) := rfl

/-- `TimerTick` on a run that has reported no condition: the state ticks and the run goes on. -/
theorem perform_timerTick {h : Session} (hr : h.Running) :
    perform .timerTick h = .next { h with state := timerTick h.state } :=
  perform_running hr .timerTick

/-! ### The writes -/

/-- The frame of a write to the delay timer. -/
theorem State.onlyChanges_setDt (s : State) (b : Byte) : OnlyChanges (· = .delay) s (s.setDt b) :=
  fun _ hc => s.component_setDt b hc

/-- The frame of a write to the sound timer. -/
theorem State.onlyChanges_setSt (s : State) (b : Byte) : OnlyChanges (· = .sound) s (s.setSt b) :=
  fun _ hc => s.component_setSt b hc

/-- A tick of a counter as a number: the floor at 0 is that of the subtraction of natural numbers, so a
counter at 0 never becomes 255 (R165). -/
theorem countDown_toNat (b : Byte) : (countDown b).toNat = b.toNat - 1 := by
  unfold countDown
  split
  next hb => subst hb; rfl
  next hb => bv_omega

@[simp] theorem timerTick_dt (s : State) : (timerTick s).dt = countDown s.dt := rfl

@[simp] theorem timerTick_st (s : State) : (timerTick s).st = countDown s.st := rfl

/-- The frame of a tick: the frames of its two writes, one after the other. -/
theorem onlyChanges_timerTick (s : State) :
    OnlyChanges (fun c => c = .delay ∨ c = .sound) s (timerTick s) := by
  intro c hc
  obtain ⟨hd, hs⟩ := not_or.mp hc
  exact (State.component_setSt _ _ hs).trans (State.component_setDt _ _ hd)

/-! ### The obligations -/

/-- Settles O46: each of the three is one write, of DT to V[x] or of the old V[x] to a timer, so any
byte is moved, 0 among them. -/
theorem timerInstructionsMoveBytes : Obligations.TimerInstructionsMoveBytes := by
  unfold Obligations.TimerInstructionsMoveBytes
  refine ⟨fun _ hw hk => ?_, fun _ hw hk => ?_, fun _ hw hk => ?_, fun x s => ⟨?_, ?_, ?_⟩⟩
  · rw [decodeWord_of_opField_eq_fifteen hw, decodeFamilyF_of_kkField_eq_0x07 hk]
  · rw [decodeWord_of_opField_eq_fifteen hw, decodeFamilyF_of_kkField_eq_0x15 hk]
  · rw [decodeWord_of_opField_eq_fifteen hw, decodeFamilyF_of_kkField_eq_0x18 hk]
  · exact ⟨_, exec_ldVxDt x s, s.getV_setV_same x _, s.onlyChanges_setV x _⟩
  · exact ⟨_, exec_ldDtVx x s, s.setDt_dt _, s.onlyChanges_setDt _⟩
  · exact ⟨_, exec_ldStVx x s, s.setSt_st _, s.onlyChanges_setSt _⟩

/-- Settles O49: the new state is the old one ticked, so the counters are `countDown`'s and the frame is
the tick's. -/
theorem timerTickCountsDown : Obligations.TimerTickCountsDown := by
  unfold Obligations.TimerTickCountsDown
  intro h hr
  refine ⟨_, perform_timerTick hr, hr, ?_, ?_, onlyChanges_timerTick h.state⟩
  · rw [timerTick_dt, countDown_toNat]
  · rw [timerTick_st, countDown_toNat]

end Sys2Proof.Machine
end

section
/-! PROOFS. The opcode map of spec 30_encoding.md as a whole: the words of the families that no section
above needed (R77, R78), the round trip of the encoder (R73), the agreement of the keyed decoder with the
mask and match rows (R77), the words that select nothing (R81) and the words that are not canonical (R79). -/

namespace Sys2Proof.Machine

/-! ### The words of each family (R77, R78) -/

/-- Family 0 is keyed by the low nibble alone (R78). -/
theorem decodeWord_of_opField_eq_zero {w : Word} (hw : opField w = 0x0) :
    decodeWord w = decodeFamily0 w := by
  simp [decodeWord, hw]

/-- 00E0 and its aliases (R77, R79). -/
theorem decodeFamily0_of_nField_eq_zero {w : Word} (hn : nField w = 0x0) :
    decodeFamily0 w = some .cls := by
  simp [decodeFamily0, hn]

/-- 00EE and its aliases (R77, R79). -/
theorem decodeFamily0_of_nField_eq_fourteen {w : Word} (hn : nField w = 0xE) :
    decodeFamily0 w = some .ret := by
  simp [decodeFamily0, hn]

/-- The words of family 2 are the encodings of CALL (R77). -/
theorem decodeWord_of_opField_eq_two {w : Word} (hw : opField w = 0x2) :
    decodeWord w = some (.call (nnnField w)) := by
  simp [decodeWord, hw]

/-- The words of family 5 are the encodings of SE Vx, Vy, whatever their low nibble (R77, R79). -/
theorem decodeWord_of_opField_eq_five {w : Word} (hw : opField w = 0x5) :
    decodeWord w = some (.seReg (xField w) (yField w)) := by
  simp [decodeWord, hw]

/-- 8xy1 (R77). -/
theorem decodeFamily8_of_nField_eq_one {w : Word} (hn : nField w = 0x1) :
    decodeFamily8 w = some (.orReg (xField w) (yField w)) := by
  simp [decodeFamily8, hn]

/-- 8xy2 (R77). -/
theorem decodeFamily8_of_nField_eq_two {w : Word} (hn : nField w = 0x2) :
    decodeFamily8 w = some (.andReg (xField w) (yField w)) := by
  simp [decodeFamily8, hn]

/-- 8xy3 (R77). -/
theorem decodeFamily8_of_nField_eq_three {w : Word} (hn : nField w = 0x3) :
    decodeFamily8 w = some (.xorReg (xField w) (yField w)) := by
  simp [decodeFamily8, hn]

/-- 8xy6 (R77). -/
theorem decodeFamily8_of_nField_eq_six {w : Word} (hn : nField w = 0x6) :
    decodeFamily8 w = some (.shr (xField w) (yField w)) := by
  simp [decodeFamily8, hn]

/-- 8xyE (R77). -/
theorem decodeFamily8_of_nField_eq_fourteen {w : Word} (hn : nField w = 0xE) :
    decodeFamily8 w = some (.shl (xField w) (yField w)) := by
  simp [decodeFamily8, hn]

/-- The words of family 9 are the encodings of SNE Vx, Vy, whatever their low nibble (R77, R79). -/
theorem decodeWord_of_opField_eq_nine {w : Word} (hw : opField w = 0x9) :
    decodeWord w = some (.sneReg (xField w) (yField w)) := by
  simp [decodeWord, hw]

/-- The words of family B are the encodings of JP V0 (R77). -/
theorem decodeWord_of_opField_eq_eleven {w : Word} (hw : opField w = 0xB) :
    decodeWord w = some (.jpV0 (nnnField w)) := by
  simp [decodeWord, hw]

/-- The words of family C are the encodings of RND (R77). -/
theorem decodeWord_of_opField_eq_twelve {w : Word} (hw : opField w = 0xC) :
    decodeWord w = some (.rnd (xField w) (kkField w)) := by
  simp [decodeWord, hw]

/-- The words of family D are the encodings of DRW (R77). -/
theorem decodeWord_of_opField_eq_thirteen {w : Word} (hw : opField w = 0xD) :
    decodeWord w = some (.drw (xField w) (yField w) (nField w).toNat) := by
  simp [decodeWord, hw]

/-- Family E is keyed by the low nibble alone (R78). -/
theorem decodeWord_of_opField_eq_fourteen {w : Word} (hw : opField w = 0xE) :
    decodeWord w = decodeFamilyE w := by
  simp [decodeWord, hw]

/-- Ex9E and its aliases (R77, R79). -/
theorem decodeFamilyE_of_nField_eq_fourteen {w : Word} (hn : nField w = 0xE) :
    decodeFamilyE w = some (.skp (xField w)) := by
  simp [decodeFamilyE, hn]

/-- ExA1 and its aliases (R77, R79). -/
theorem decodeFamilyE_of_nField_eq_one {w : Word} (hn : nField w = 0x1) :
    decodeFamilyE w = some (.sknp (xField w)) := by
  simp [decodeFamilyE, hn]

/-- Fx0A (R77). -/
theorem decodeFamilyF_of_kkField_eq_0x0A {w : Word} (hk : kkField w = 0x0A) :
    decodeFamilyF w = some (.ldVxK (xField w)) := by
  simp [decodeFamilyF, hk]

/-- Fx1E (R77). -/
theorem decodeFamilyF_of_kkField_eq_0x1E {w : Word} (hk : kkField w = 0x1E) :
    decodeFamilyF w = some (.addI (xField w)) := by
  simp [decodeFamilyF, hk]

/-- Fx29 (R77). -/
theorem decodeFamilyF_of_kkField_eq_0x29 {w : Word} (hk : kkField w = 0x29) :
    decodeFamilyF w = some (.ldF (xField w)) := by
  simp [decodeFamilyF, hk]

/-- Fx55 (R77). -/
theorem decodeFamilyF_of_kkField_eq_0x55 {w : Word} (hk : kkField w = 0x55) :
    decodeFamilyF w = some (.ldMemV (xField w)) := by
  simp [decodeFamilyF, hk]

/-- Fx65 (R77). -/
theorem decodeFamilyF_of_kkField_eq_0x65 {w : Word} (hk : kkField w = 0x65) :
    decodeFamilyF w = some (.ldVMem (xField w)) := by
  simp [decodeFamilyF, hk]

/-! ### The round trip -/

/-- The canonical word of a well-formed instruction decodes to it. The cases follow the layouts of R73;
DRW's is where well-formedness is needed, for its row count to fit the field. -/
theorem decodeWord_encode {i : Instr} (hi : i.WellFormed) : decodeWord (encode i) = some i := by
  cases i with
  | cls | ret => rfl
  | jp | call | ldI | jpV0 => simp [encode, decodeWord]
  | seImm | sneImm | ldImm | addImm | rnd => simp [encode, decodeWord]
  | seReg | sneReg => simp [encode, decodeWord]
  | drw x y n =>
    have hn : n < 16 := of_decide_eq_true hi
    simp [encode, decodeWord, Nat.mod_eq_of_lt hn]
  | ldReg | orReg | andReg | xorReg | addReg | subReg | shr | subnReg | shl =>
    simp [encode, decodeWord_of_opField_eq_eight, decodeFamily8]
  | skp | sknp => simp [encode, decodeWord_of_opField_eq_fourteen, decodeFamilyE]
  | ldVxDt | ldVxK | ldDtVx | ldStVx | addI | ldF | ldB | ldMemV | ldVMem =>
    simp [encode, decodeWord_of_opField_eq_fifteen, decodeFamilyF]

/-- `decode` reads the word its first two bytes make, and leaves the rest. -/
theorem decode_wordBytes_append {w : Word} {i : Instr} (hw : decodeWord w = some i)
    (rest : List Byte) : decode (wordBytes w ++ rest) = .ok (i, rest) := by
  simp [wordBytes, decode, hw]

/-- Settles O1: the bytes of the canonical word make the word again, and that word decodes to its
instruction. -/
theorem decodeEncodeRoundTrip : Obligations.DecodeEncodeRoundTrip := by
  unfold Obligations.DecodeEncodeRoundTrip
  exact fun i rest hi => decode_wordBytes_append (decodeWord_encode hi) rest

/-! ### The opcode table -/

/-- Mask 0xF000 keeps the family of a word. -/
theorem and_family (w : Word) : w &&& 0xF000 = digits (opField w) 0 0 0 := by
  conv_lhs => rw [eq_digits w]
  exact Laws.EncodingFitsTable.digits_family _ _ _ _

/-- Mask 0xF00F keeps the family and the low nibble. -/
theorem and_family_and_key (w : Word) : w &&& 0xF00F = digits (opField w) 0 0 (nField w) := by
  conv_lhs => rw [eq_digits w]
  exact Laws.EncodingFitsTable.digits_family_and_key _ _ _ _

/-- A word is its family, its register and its low byte. -/
theorem eq_digitsByte (w : Word) : w = digitsByte (opField w) (regBits (xField w)) (kkField w) := by
  refine BitVec.eq_of_getLsbD_eq fun k hk => ?_
  simp only [opField, kkField, regBits_xField, digitsByte_getLsbD, BitVec.getLsbD_extractLsb']
  grind

/-- Mask 0xF0FF keeps the family and the low byte. -/
theorem and_family_and_byte (w : Word) : w &&& 0xF0FF = digitsByte (opField w) 0 (kkField w) := by
  conv_lhs => rw [eq_digitsByte w]
  exact Laws.EncodingFitsTable.digitsByte_family_and_key _ _ _

/-- The row a word selects, by the name of what it decodes to. -/
def rowName (w : Word) : Option String := (decodeWord w).map mnemonic

theorem rowName_eq_some_iff {w : Word} {name : String} :
    rowName w = some name ↔ ∃ i, decodeWord w = some i ∧ mnemonic i = name :=
  Option.map_eq_some_iff

/-- Outside the four keyed families the family alone selects the row (R78). -/
theorem rowName_eq_of_family {w v : Word} (h : opField w = opField v)
    (hv : opField v ≠ 0x0 ∧ opField v ≠ 0x8 ∧ opField v ≠ 0xE ∧ opField v ≠ 0xF) :
    rowName w = rowName v := by
  obtain ⟨h0, h8, hE, hF⟩ := hv
  unfold rowName decodeWord
  rw [h]
  split <;> simp_all [mnemonic]

/-- Families 0, 8 and E select the row by the low nibble (R78). -/
theorem rowName_eq_of_key {w v : Word} (h : opField w = opField v) (hn : nField w = nField v)
    (hv : opField v = 0x0 ∨ opField v = 0x8 ∨ opField v = 0xE) : rowName w = rowName v := by
  unfold rowName
  obtain hv | hv | hv := hv <;> rw [hv] at h
  · rw [decodeWord_of_opField_eq_zero h, decodeWord_of_opField_eq_zero hv]
    unfold decodeFamily0
    rw [hn]
  · rw [decodeWord_of_opField_eq_eight h, decodeWord_of_opField_eq_eight hv]
    unfold decodeFamily8
    rw [hn]
    split <;> simp [mnemonic]
  · rw [decodeWord_of_opField_eq_fourteen h, decodeWord_of_opField_eq_fourteen hv]
    unfold decodeFamilyE
    rw [hn]
    split <;> simp [mnemonic]

/-- Family F selects the row by the low byte (R78). -/
theorem rowName_eq_of_byte {w v : Word} (h : opField w = opField v) (hk : kkField w = kkField v)
    (hv : opField v = 0xF) : rowName w = rowName v := by
  unfold rowName
  rw [hv] at h
  rw [decodeWord_of_opField_eq_fifteen h, decodeWord_of_opField_eq_fifteen hv]
  unfold decodeFamilyF
  rw [hk]
  split <;> simp [mnemonic]

/-- The mask of a row keeps just the bits its family examines (R78). -/
def MaskFitsFamily (row : OpcodeRow) : Prop :=
  (row.mask = 0xF000 ∧ opField row.value ≠ 0x0 ∧ opField row.value ≠ 0x8 ∧
    opField row.value ≠ 0xE ∧ opField row.value ≠ 0xF) ∨
  (row.mask = 0xF00F ∧
    (opField row.value = 0x0 ∨ opField row.value = 0x8 ∨ opField row.value = 0xE)) ∨
  (row.mask = 0xF0FF ∧ opField row.value = 0xF)

/-- Each of the 34 masks fits. -/
theorem opcodeTable_maskFitsFamily : ∀ row ∈ opcodeTable, MaskFitsFamily row := by
  unfold MaskFitsFamily
  decide

/-- Every row's match, as a word of its own, selects that row. -/
theorem rowName_value : ∀ row ∈ opcodeTable, rowName row.value = some row.name := by decide

/-- A word that a row matches selects the row its match selects. -/
theorem rowName_eq_of_matches {row : OpcodeRow} (hfit : MaskFitsFamily row) {w : Word}
    (hw : w &&& row.mask = row.value) : rowName w = rowName row.value := by
  obtain ⟨hm, hv⟩ | ⟨hm, hv⟩ | ⟨hm, hv⟩ := hfit <;> rw [hm] at hw
  · rw [and_family] at hw
    exact rowName_eq_of_family (by simp [← hw]) hv
  · rw [and_family_and_key] at hw
    exact rowName_eq_of_key (by simp [← hw]) (by simp [← hw]) hv
  · rw [and_family_and_byte] at hw
    exact rowName_eq_of_byte (by simp [← hw]) (by simp [← hw]) hv

/-- The word is matched by a row that bears the instruction's mnemonic. -/
def MatchedByOwnRow (w : Word) (i : Instr) : Prop :=
  ∃ row ∈ opcodeTable, row.name = mnemonic i ∧ w &&& row.mask = row.value

/-- A row of mask 0xF000 with the word's family matches it. -/
theorem matchedByOwnRow_of_family {w : Word} {i : Instr} {a : Nibble} (hw : opField w = a)
    (hrow : ⟨mnemonic i, 0xF000, digits a 0 0 0⟩ ∈ opcodeTable) : MatchedByOwnRow w i :=
  ⟨_, hrow, rfl, by rw [and_family, hw]⟩

/-- A row of mask 0xF00F with the word's family and low nibble matches it. -/
theorem matchedByOwnRow_of_key {w : Word} {i : Instr} {a d : Nibble} (hw : opField w = a)
    (hn : nField w = d) (hrow : ⟨mnemonic i, 0xF00F, digits a 0 0 d⟩ ∈ opcodeTable) :
    MatchedByOwnRow w i :=
  ⟨_, hrow, rfl, by rw [and_family_and_key, hw, hn]⟩

/-- A row of mask 0xF0FF with the word's family and low byte matches it. -/
theorem matchedByOwnRow_of_byte {w : Word} {i : Instr} {a : Nibble} {kk : Byte} (hw : opField w = a)
    (hk : kkField w = kk) (hrow : ⟨mnemonic i, 0xF0FF, digitsByte a 0 kk⟩ ∈ opcodeTable) :
    MatchedByOwnRow w i :=
  ⟨_, hrow, rfl, by rw [and_family_and_byte, hw, hk]⟩

theorem decodeFamily0_matched {w : Word} {i : Instr} (hw : opField w = 0x0)
    (hi : decodeFamily0 w = some i) : MatchedByOwnRow w i := by
  unfold decodeFamily0 at hi
  split at hi <;> cases hi
  all_goals refine matchedByOwnRow_of_key hw ‹_› ?_
  all_goals simp [opcodeTable, opcodeRowsA, mnemonic, digits]

theorem decodeFamily8_matched {w : Word} {i : Instr} (hw : opField w = 0x8)
    (hi : decodeFamily8 w = some i) : MatchedByOwnRow w i := by
  unfold decodeFamily8 at hi
  split at hi <;> cases hi
  all_goals refine matchedByOwnRow_of_key hw ‹_› ?_
  all_goals simp [opcodeTable, opcodeRowsA, opcodeRowsB, mnemonic, digits]

theorem decodeFamilyE_matched {w : Word} {i : Instr} (hw : opField w = 0xE)
    (hi : decodeFamilyE w = some i) : MatchedByOwnRow w i := by
  unfold decodeFamilyE at hi
  split at hi <;> cases hi
  all_goals refine matchedByOwnRow_of_key hw ‹_› ?_
  all_goals simp [opcodeTable, opcodeRowsC, mnemonic, digits]

theorem decodeFamilyF_matched {w : Word} {i : Instr} (hw : opField w = 0xF)
    (hi : decodeFamilyF w = some i) : MatchedByOwnRow w i := by
  unfold decodeFamilyF at hi
  split at hi <;> cases hi
  all_goals refine matchedByOwnRow_of_byte hw ‹_› ?_
  all_goals simp [opcodeTable, opcodeRowsC, mnemonic, digitsByte]

/-- A word that decodes is matched by the row of what it decodes to. -/
theorem decodeWord_matched {w : Word} {i : Instr} (hi : decodeWord w = some i) :
    MatchedByOwnRow w i := by
  unfold decodeWord at hi
  split at hi
  case h_1 hw => exact decodeFamily0_matched hw hi
  case h_9 hw => exact decodeFamily8_matched hw hi
  case h_15 hw => exact decodeFamilyE_matched hw hi
  case h_16 hw => exact decodeFamilyF_matched hw hi
  all_goals cases hi
  all_goals refine matchedByOwnRow_of_family ‹_› ?_
  all_goals simp [opcodeTable, opcodeRowsA, opcodeRowsB, mnemonic, digits]

/-- Every row has a mnemonic of its own. -/
theorem opcodeTable_names_nodup : (opcodeTable.map OpcodeRow.name).Nodup := by decide

/-- Settles O2. A match fixes the examined bits, so the word has the row of the match itself; and a
decoded word is matched by the row of its mnemonic, which no other row bears. -/
theorem decoderAgreesWithOpcodeTable : Obligations.DecoderAgreesWithOpcodeTable := by
  unfold Obligations.DecoderAgreesWithOpcodeTable
  intro w row hrow
  rw [← rowName_eq_some_iff]
  constructor
  · intro hw
    rw [rowName_eq_of_matches (opcodeTable_maskFitsFamily row hrow) hw, rowName_value row hrow]
  · intro hname
    obtain ⟨i, hi, hin⟩ := rowName_eq_some_iff.mp hname
    obtain ⟨own, hown, hon, hmatch⟩ := decodeWord_matched hi
    rwa [List.inj_on_of_nodup_map opcodeTable_names_nodup hown hrow (hon.trans hin)] at hmatch

/-- Settles O3: a word that two rows match would have two mnemonics. -/
theorem opcodeRowsPairwiseDisjoint : Obligations.OpcodeRowsPairwiseDisjoint := by
  unfold Obligations.OpcodeRowsPairwiseDisjoint
  refine ⟨rfl, (List.pairwise_map.mp opcodeTable_names_nodup).imp_of_mem ?_⟩
  intro a b ha hb hne w ⟨hwa, hwb⟩
  refine hne ?_
  have na := rowName_eq_of_matches (opcodeTable_maskFitsFamily a ha) hwa
  have nb := rowName_eq_of_matches (opcodeTable_maskFitsFamily b hb) hwb
  rw [rowName_value a ha] at na
  rw [rowName_value b hb] at nb
  exact Option.some.inj (na.symm.trans nb)

/-! ### The words that select nothing (R81) -/

theorem decodeFamily0_eq_none_iff (w : Word) :
    decodeFamily0 w = none ↔ nField w ≠ 0x0 ∧ nField w ≠ 0xE := by
  unfold decodeFamily0
  split <;> simp_all

/-- The sixteen digits. -/
theorem nibble_cases : ∀ n : Nibble, n = 0x0 ∨ n = 0x1 ∨ n = 0x2 ∨ n = 0x3 ∨ n = 0x4 ∨ n = 0x5 ∨
    n = 0x6 ∨ n = 0x7 ∨ n = 0x8 ∨ n = 0x9 ∨ n = 0xA ∨ n = 0xB ∨ n = 0xC ∨ n = 0xD ∨ n = 0xE ∨
    n = 0xF := by decide

theorem decodeFamily8_eq_none_iff (w : Word) :
    decodeFamily8 w = none ↔ nField w = 0x8 ∨ nField w = 0x9 ∨ nField w = 0xA ∨ nField w = 0xB ∨
      nField w = 0xC ∨ nField w = 0xD ∨ nField w = 0xF := by
  unfold decodeFamily8
  generalize nField w = n
  split
  case h_10 =>
    have := nibble_cases n
    simp_all
  all_goals simp

theorem decodeFamilyE_eq_none_iff (w : Word) :
    decodeFamilyE w = none ↔ nField w ≠ 0x1 ∧ nField w ≠ 0xE := by
  unfold decodeFamilyE
  split <;> simp_all

theorem decodeFamilyF_eq_none_iff (w : Word) :
    decodeFamilyF w = none ↔ kkField w ≠ 0x07 ∧ kkField w ≠ 0x0A ∧ kkField w ≠ 0x15 ∧
      kkField w ≠ 0x18 ∧ kkField w ≠ 0x1E ∧ kkField w ≠ 0x29 ∧ kkField w ≠ 0x33 ∧
      kkField w ≠ 0x55 ∧ kkField w ≠ 0x65 := by
  unfold decodeFamilyF
  split <;> simp_all

/-- Settles O4: outside families 0, 8, E and F every word decodes, and these four list what their keys
leave out. -/
theorem unimplementedWordsAreTheListed : Obligations.UnimplementedWordsAreTheListed := by
  unfold Obligations.UnimplementedWordsAreTheListed
  intro w
  unfold decodeWord
  split
  case h_1 hw => simp [hw, decodeFamily0_eq_none_iff]
  case h_9 hw => simp [hw, decodeFamily8_eq_none_iff]
  case h_15 hw => simp [hw, decodeFamilyE_eq_none_iff]
  case h_16 hw => simp [hw, decodeFamilyF_eq_none_iff]
  case h_17 =>
    have := nibble_cases (opField w)
    simp_all
  all_goals simp_all

/-! ### The words that are not canonical (R79) -/

/-- SHR ignores its y (R131). -/
theorem exec_shr_y (x y y' : Reg) (s : State) : exec (.shr x y) s = exec (.shr x y') s := rfl

/-- SHL ignores its y (R133). -/
theorem exec_shl_y (x y y' : Reg) (s : State) : exec (.shl x y) s = exec (.shl x y') s := rfl

/-- The words of SHR. -/
theorem decodeWord_digits_shr (b c : Nibble) :
    decodeWord (digits 0x8 b c 0x6) = some (.shr b.toFin c.toFin) := by
  simp [decodeWord_of_opField_eq_eight, decodeFamily8_of_nField_eq_six]

/-- The words of SHL. -/
theorem decodeWord_digits_shl (b c : Nibble) :
    decodeWord (digits 0x8 b c 0xE) = some (.shl b.toFin c.toFin) := by
  simp [decodeWord_of_opField_eq_eight, decodeFamily8_of_nField_eq_fourteen]

/-- Settles O5: aliases have the canonical word's examined bits, so they decode alike; of SHR and SHL
only the operand y differs, which has no effect. -/
theorem aliasWordsDecodeAsCanonical : Obligations.AliasWordsDecodeAsCanonical := by
  unfold Obligations.AliasWordsDecodeAsCanonical
  refine ⟨fun w i hi => decodeWord_wellFormed hi, fun a b c d c' d' =>
    ⟨?_, ?_, ?_, ?_, ?_, ?_, ?_, ?_⟩⟩
  · exact (decodeWord_of_opField_eq_zero (by simp)).trans (decodeFamily0_of_nField_eq_zero (by simp))
  · exact (decodeWord_of_opField_eq_zero (by simp)).trans
      (decodeFamily0_of_nField_eq_fourteen (by simp))
  · simp [decodeWord_of_opField_eq_five]
  · simp [decodeWord_of_opField_eq_nine]
  · simp [decodeWord_of_opField_eq_fourteen, decodeFamilyE_of_nField_eq_fourteen]
  · simp [decodeWord_of_opField_eq_fourteen, decodeFamilyE_of_nField_eq_one]
  · intro s
    simp only [decodeWord_digits_shr, Option.map_some, exec_shr_y _ c.toFin d'.toFin]
  · intro s
    simp only [decodeWord_digits_shl, Option.map_some, exec_shl_y _ c.toFin d'.toFin]

/-- Settles O6: the decoder is run on the seven words. -/
theorem sampleWordsDecode : Obligations.SampleWordsDecode := by
  unfold Obligations.SampleWordsDecode
  decide

end Sys2Proof.Machine
end

section
/-! PROOFS. The rest of spec 43_index_memory.md: ADD I and LD F are one write of I (R141, R142), LD [I], Vx
is one store and LD Vx, [I] one load of V[0] to V[x] (R144, R145); what a store leaves is what a fetch reads
(20_memory.md section 6), and LD F points at the glyph of a font (70_reset_and_hazards.md R193). -/

namespace Sys2Proof.Machine

/-! ### The effects -/

/-- ADD I, Vx as an effect (R141). -/
theorem exec_addI (x : Reg) (s : State) :
    exec (.addI x) s = .next (s.setI (s.i + zextByte (s.getV x))) := rfl

/-- LD F, Vx as an effect (R142). -/
theorem exec_ldF (x : Reg) (s : State) :
    exec (.ldF x) s = .next (s.setI (glyphAddress (s.getV x))) := rfl

/-- LD [I], Vx as an effect: one store, from I (R144). -/
theorem exec_ldMemV (x : Reg) (s : State) :
    exec (.ldMemV x) s = .next (s.memWriteBytes s.i.toNat (s.regsUpTo x)) := rfl

/-- LD Vx, [I] as an effect: one load, from I (R145). -/
theorem exec_ldVMem (x : Reg) (s : State) : exec (.ldVMem x) s = .next (s.loadRegs s.i.toNat x) := rfl

/-! ### The values -/

/-- A byte widened to a word keeps its value. -/
@[simp] theorem zextByte_toNat (b : Byte) : (zextByte b).toNat = b.toNat :=
  BitVec.toNat_setWidth_of_le (by decide)

/-- Five times a byte fits I, so no reduction is left in it (R142). -/
@[simp] theorem glyphAddress_toNat (b : Byte) : (glyphAddress b).toNat = b.toNat * 5 := by
  have hb : b.toNat < 256 := b.isLt
  simp only [glyphAddress, BitVec.toNat_ofNat]
  omega

/-- The store of V[0] to V[x] leaves V[r] at `a + r` (R144). -/
theorem State.memWriteBytes_regsUpTo_read (s : State) (a : Nat) {x r : Reg} (hr : r ≤ x) :
    (s.memWriteBytes a (s.regsUpTo x)).memRead (a + r.val) = s.getV r := by
  have hlen := s.regsUpTo_length x
  have hrx : r.val ≤ x.val := hr
  rw [s.memWriteBytes_inside a (s.regsUpTo x) (by omega) r.val (by omega), State.regsUpTo_getElem]

/-- The frame of that store. -/
theorem State.onlyChanges_store_regsUpTo (s : State) (a : Nat) (x : Reg) :
    OnlyChanges (inBytes a (x.val + 1)) s (s.memWriteBytes a (s.regsUpTo x)) := by
  rw [← s.regsUpTo_length x]
  exact s.onlyChanges_memWriteBytes a (s.regsUpTo x)

/-- The frame of a load of V[0] to V[x]. -/
theorem State.onlyChanges_loadRegs (s : State) (a : Nat) (x : Reg) :
    OnlyChanges (fun c => ∃ r, r ≤ x ∧ c = .reg r) s (s.loadRegs a x) :=
  fun _ hc => s.component_loadRegs a x fun r hr e => hc ⟨r, hr, e⟩

/-- A fetch reads the two bytes that any address equal to `pc` mod 4096 addresses (R9, R25). -/
theorem State.fetchWord_setPc (s : State) {p : Word} {a : Nat} (h : p.toNat % 4096 = a % 4096) :
    (s.setPc p).fetchWord = s.memRead a ++ s.memRead (a + 1) := by
  have next : (p.toNat + 1) % 4096 = (a + 1) % 4096 := Nat.ModEq.add_right 1 h
  rw [State.fetchWord, State.setPc_pc, State.setPc_memRead, State.setPc_memRead,
    s.memRead_congr h, s.memRead_congr next]
  rfl

/-- The bytes of a digit's glyph are at five times the digit, for any font a state holds (R193). -/
theorem State.memRead_glyph {s : State} {font : Vector Byte 80} (hs : s.HoldsFont font) {b : Byte}
    {d k : Nat} (hb : b.toNat = d) (hd : d < 16) (hk : k < 5) :
    s.memRead ((glyphAddress b).toNat + k) = font[5 * d + k] := by
  rw [glyphAddress_toNat, hb, Nat.mul_comm]
  exact hs ⟨5 * d + k, by omega⟩

/-! ### The obligations -/

/-- Settles O36: one write of I, so neither a flag nor V[x] is in its frame. -/
theorem addIndexWraps : Obligations.AddIndexWraps := by
  unfold Obligations.AddIndexWraps
  refine ⟨fun _ hw hk => ?_, fun x s => ⟨_, exec_addI x s, ?_, s.onlyChanges_setI _⟩⟩
  · rw [decodeWord_of_opField_eq_fifteen hw, decodeFamilyF_of_kkField_eq_0x1E hk]
  · rw [State.setI_i, BitVec.toNat_add, zextByte_toNat]

/-- Settles O37: the product of the whole byte fits the 16 bits of I. -/
theorem glyphAddressIsFiveTimes : Obligations.GlyphAddressIsFiveTimes := by
  unfold Obligations.GlyphAddressIsFiveTimes
  refine ⟨fun _ hw hk => ?_, fun x s => ⟨_, exec_ldF x s, glyphAddress_toNat _, s.onlyChanges_setI _⟩⟩
  rw [decodeWord_of_opField_eq_fifteen hw, decodeFamilyF_of_kkField_eq_0x29 hk]

/-- Settles O39: one store of x + 1 bytes. -/
theorem registersAreStored : Obligations.RegistersAreStored := by
  unfold Obligations.RegistersAreStored
  refine ⟨fun _ hw hk => ?_, fun x s => ⟨_, exec_ldMemV x s, fun r hr => ?_, ?_⟩⟩
  · rw [decodeWord_of_opField_eq_fifteen hw, decodeFamilyF_of_kkField_eq_0x55 hk]
  · exact s.memWriteBytes_regsUpTo_read _ hr
  · exact s.onlyChanges_store_regsUpTo _ x

/-- Settles O40: one load of x + 1 registers. -/
theorem registersAreLoaded : Obligations.RegistersAreLoaded := by
  unfold Obligations.RegistersAreLoaded
  refine ⟨fun _ hw hk => ?_, fun x s => ⟨_, exec_ldVMem x s, fun r hr => ?_, ?_⟩⟩
  · rw [decodeWord_of_opField_eq_fifteen hw, decodeFamilyF_of_kkField_eq_0x65 hk]
  · rw [State.loadRegs_getV, if_pos hr]
  · exact s.onlyChanges_loadRegs _ x

/-- Settles O41: the fetch reads the bytes at I + k and I + k + 1, where the store left V[k] and V[l]. -/
theorem storedWordIsFetchedNext : Obligations.StoredWordIsFetchedNext := by
  unfold Obligations.StoredWordIsFetchedNext
  intro x k l s hkl hl
  have hk : k ≤ x := by
    have hlx : l.val ≤ x.val := hl
    exact Fin.mk_le_of_le_val (by omega)
  refine ⟨_, exec_ldMemV x s, fun p hp => ?_⟩
  rw [State.fetchWord_setPc _ hp, s.memWriteBytes_regsUpTo_read _ hk, Nat.add_assoc, ← hkl,
    s.memWriteBytes_regsUpTo_read _ hl]

/-- Settles O54: the write of I leaves memory, so the glyph stays where the font put it. -/
theorem glyphAddressHoldsGlyph : Obligations.GlyphAddressHoldsGlyph := by
  unfold Obligations.GlyphAddressHoldsGlyph
  intro font x s hs d hd hx
  exact ⟨_, exec_ldF x s, fun k hk => s.memRead_glyph hs hx hd hk⟩

end Sys2Proof.Machine
end

section
/-! PROOFS. The display instructions of spec 44_display.md and the glyphs of 70_reset_and_hazards.md. The
row loop of DRW is `draw_byte` row by row (R153): a sprite of at most 32 rows meets each display row at
most once, so its laws are those of the single row. -/

namespace Sys2Proof.Machine

/-! ### Frames -/

/-- A wider frame. -/
theorem OnlyChanges.mono {P Q : Component → Prop} {s t : State} (h : OnlyChanges P s t)
    (hPQ : ∀ c, P c → Q c) : OnlyChanges Q s t :=
  fun c hc => h c fun hp => hc (hPQ c hp)

/-- Frames compose. -/
theorem OnlyChanges.trans {P : Component → Prop} {s t u : State} (hst : OnlyChanges P s t)
    (htu : OnlyChanges P t u) : OnlyChanges P s u :=
  fun c hc => (htu c hc).trans (hst c hc)

/-- The frame of a flag (R26). -/
theorem State.onlyChanges_setFlag (s : State) (f : Bool) : OnlyChanges (· = .reg 15) s (s.setFlag f) :=
  s.onlyChanges_setV 15 _

/-- The frame of a write of the display: the pixels. -/
theorem State.onlyChanges_setGfx (s : State) (g : Display) :
    OnlyChanges (fun c => ∃ col row, c = .pixel col row) s (s.setGfx g) :=
  fun _ hc => s.component_setGfx g fun col row e => absurd ⟨col, row, e⟩ hc

@[simp] theorem State.setFlag_gfx (s : State) (f : Bool) : (s.setFlag f).gfx = s.gfx := rfl

@[simp] theorem State.setFlag_getV_flag (s : State) (f : Bool) : (s.setFlag f).getV 15 = flagByte f :=
  s.getV_setV_same 15 _

theorem State.setFlag_getV_of_ne (s : State) {x : Reg} (hx : x ≠ 15) (f : Bool) :
    (s.setFlag f).getV x = s.getV x :=
  s.getV_setV_of_ne hx _

@[simp] theorem flagByte_eq_one_iff (f : Bool) : flagByte f = 1 ↔ f = true := by cases f <;> decide

@[simp] theorem flagByte_eq_zero_iff (f : Bool) : flagByte f = 0 ↔ f = false := by cases f <;> decide

/-! ### The row loop (R153) -/

/-- Reducing the row first does not move it. -/
@[simp] theorem line_mod (n : Nat) : line (n % 32) = line n := Fin.ext (Nat.mod_mod n 32)

/-- Rows less than 32 apart are distinct. -/
theorem line_injective {a i j : Nat} (hi : i < 32) (hj : j < 32)
    (h : line (a + i) = line (a + j)) : i = j := by
  have := congrArg Fin.val h
  simp only [line_val] at this
  omega

/-- `draw_byte` changes its own row only. -/
theorem drawByte_other_row (g : Display) (xc yc : Nat) (b : Byte) (c : Fin 64) {r : Fin 32}
    (hr : r ≠ line yc) : pixel (drawByte g xc yc b).1 c r = pixel g c r :=
  drawByte_outside g xc yc b fun _ _ h => hr h.2

/-- The row loop leaves the pixels it does not reach alone. -/
theorem drawRows_outside (g : Display) (xc yc : Nat) (rows : List Byte) (r : Nat) {c : Fin 64}
    {l : Fin 32}
    (h : ∀ j k, j < 8 → k < rows.length → ¬ (c = column (xc + j) ∧ l = line (yc + (r + k)))) :
    pixel (drawRows g xc yc rows r).1 c l = pixel g c l := by
  induction rows generalizing g r with
  | nil => rfl
  | cons b rows ih =>
    have tail : ∀ j k, j < 8 → k < rows.length →
        ¬ (c = column (xc + j) ∧ l = line (yc + (r + 1 + k))) :=
      fun j k hj hk => by
        have := h j (k + 1) hj (by simpa using hk)
        rwa [show r + (k + 1) = r + 1 + k by omega] at this
    have head : ∀ j, j < 8 → ¬ (c = column (xc + j) ∧ l = line ((yc + r) % 32)) := fun j hj => by
      simpa using h j 0 hj (by simp)
    exact (ih _ _ tail).trans (drawByte_outside _ _ _ _ head)

/-- The rows after the first leave the first row's line alone. -/
theorem drawRows_line_before (g : Display) (xc yc : Nat) (rows : List Byte) (r : Nat) (c : Fin 64)
    (hlen : rows.length < 32) :
    pixel (drawRows g xc yc rows (r + 1)).1 c (line (yc + r)) = pixel g c (line (yc + r)) :=
  drawRows_outside g xc yc rows (r + 1) fun _ k _ hk ⟨_, hl⟩ => by
    have := line_injective (a := yc + r) (i := 0) (j := 1 + k) (by omega) (by omega)
      (by rwa [show yc + r + (1 + k) = yc + (r + 1 + k) by omega])
    omega

/-- The first row leaves the lines of the rows after it alone. -/
theorem drawByte_line_after (g : Display) (xc yc r k : Nat) (b : Byte) (c : Fin 64) (hk : 1 + k < 32) :
    pixel (drawByte g xc ((yc + r) % 32) b).1 c (line (yc + (r + 1 + k))) =
      pixel g c (line (yc + (r + 1 + k))) :=
  drawByte_other_row g xc _ b c fun hl => by
    have := line_injective (a := yc + r) (i := 1 + k) (j := 0) (by omega) (by omega)
      (by rw [show yc + r + (1 + k) = yc + (r + 1 + k) by omega]; simpa using hl)
    omega

/-- The row loop exclusive-ors its bytes into the pixels it reaches. -/
theorem drawRows_inside (g : Display) (xc yc : Nat) (rows : List Byte) (r : Nat)
    (hlen : rows.length ≤ 32) {j k : Nat} (hj : j < 8) (hk : k < rows.length) :
    pixel (drawRows g xc yc rows r).1 (column (xc + j)) (line (yc + (r + k))) =
      (pixel g (column (xc + j)) (line (yc + (r + k))) ^^ rows[k].getLsbD (7 - j)) := by
  induction rows generalizing g r k with
  | nil => simp at hk
  | cons b rows ih =>
    simp only [List.length_cons] at hlen hk
    simp only [drawRows]
    cases k with
    | zero =>
      simp only [Nat.add_zero, List.getElem_cons_zero]
      rw [drawRows_line_before _ _ _ _ _ _ (by omega), ← line_mod, drawByte_inside _ _ _ _ hj]
    | succ k =>
      rw [show r + (k + 1) = r + 1 + k by omega, ih _ _ (by omega) (by omega),
        drawByte_line_after _ _ _ _ _ _ _ (by omega)]
      rfl

/-- The collision of the row loop: some set bit met a pixel that was set before the loop. -/
theorem drawRows_hit (g : Display) (xc yc : Nat) (rows : List Byte) (r : Nat)
    (hlen : rows.length ≤ 32) :
    (drawRows g xc yc rows r).2 = true ↔
      ∃ j k, j < 8 ∧ ∃ hk : k < rows.length, rows[k].getLsbD (7 - j) = true ∧
        pixel g (column (xc + j)) (line (yc + (r + k))) = true := by
  induction rows generalizing g r with
  | nil => simp [drawRows]
  | cons b rows ih =>
    simp only [List.length_cons] at hlen
    have hrows : rows.length ≤ 32 := by omega
    simp only [drawRows, Bool.or_eq_true, drawByte_hit, line_mod, ih _ _ hrows]
    constructor
    · rintro (⟨j, hj, hb, hp⟩ | ⟨j, k, hj, hk, hb, hp⟩)
      · exact ⟨j, 0, hj, by simp, hb, hp⟩
      · rw [drawByte_line_after _ _ _ _ _ _ _ (by omega)] at hp
        refine ⟨j, k + 1, hj, by simpa using hk, hb, ?_⟩
        rwa [show r + (k + 1) = r + 1 + k by omega]
    · rintro ⟨j, k, hj, hk, hb, hp⟩
      cases k with
      | zero => exact .inl ⟨j, hj, hb, hp⟩
      | succ k =>
        simp only [List.length_cons] at hk
        refine .inr ⟨j, k, hj, by omega, hb, ?_⟩
        rw [drawByte_line_after _ _ _ _ _ _ _ (by omega)]
        rwa [show r + (k + 1) = r + 1 + k by omega] at hp

/-! ### The sprite of a state -/

/-- Bit 7 - j of sprite row k, at I + k (R153). -/
def State.spriteBit (s : State) (j k : Nat) : Bool := (s.memRead (s.i.toNat + k)).getLsbD (7 - j)

/-- The pixel that bit is drawn to, as it is before the draw. -/
def State.pixelUnder (s : State) (x y : Reg) (j k : Nat) : Bool :=
  pixel s.gfx (column ((s.getV x).toNat + j)) (line ((s.getV y).toNat + k))

/-- The pixels of the sprite rectangle after a draw. -/
theorem State.drawSprite_inside (s : State) (x y : Reg) {n : Nat} (hn : n ≤ 32) {j k : Nat}
    (hj : j < 8) (hk : k < n) :
    pixel (s.drawSprite x y n).1 (column ((s.getV x).toNat + j)) (line ((s.getV y).toNat + k)) =
      (s.pixelUnder x y j k ^^ s.spriteBit j k) := by
  have loop := drawRows_inside s.gfx (s.getV x).toNat (s.getV y).toNat (s.memReadBytes s.indexBase n) 0
    (by simpa using hn) hj (by simpa using hk)
  rwa [Nat.zero_add, State.memReadBytes_getElem] at loop

/-- The other pixels after a draw. -/
theorem State.drawSprite_outside (s : State) (x y : Reg) (n : Nat) {c : Fin 64} {r : Fin 32}
    (h : ¬ inSprite (s.getV x).toNat (s.getV y).toNat n (.pixel c r)) :
    pixel (s.drawSprite x y n).1 c r = pixel s.gfx c r :=
  drawRows_outside _ _ _ _ 0 fun j k hj hk ⟨hc, hr⟩ =>
    h ⟨j, k, hj, by simpa using hk, by rw [hc, hr, Nat.zero_add]⟩

/-- The collision of a draw. -/
theorem State.drawSprite_hit (s : State) (x y : Reg) {n : Nat} (hn : n ≤ 32) :
    (s.drawSprite x y n).2 = true ↔
      ∃ j k, j < 8 ∧ k < n ∧ s.spriteBit j k = true ∧ s.pixelUnder x y j k = true := by
  have loop := drawRows_hit s.gfx (s.getV x).toNat (s.getV y).toNat (s.memReadBytes s.indexBase n) 0
    (by simpa using hn)
  simp only [Nat.zero_add, State.memReadBytes_getElem, State.memReadBytes_length, exists_prop] at loop
  exact loop

/-! ### The effects -/

/-- CLS as an effect (R152). -/
theorem exec_cls (s : State) : exec .cls s = .next (s.setGfx blankDisplay) := rfl

/-- DRW as an effect: the display and after it the flag (R26, R153). -/
theorem exec_drw (x y : Reg) (n : Nat) (s : State) :
    exec (.drw x y n) s =
      .next ((s.setGfx (s.drawSprite x y n).1).setFlag (s.drawSprite x y n).2) := rfl

/-- The frame of a draw: VF and the wrapped rectangle. -/
theorem State.onlyChanges_draw (s : State) (x y : Reg) (n : Nat) (f : Bool) :
    OnlyChanges (fun c => c = .reg 15 ∨ inSprite (s.getV x).toNat (s.getV y).toNat n c) s
      ((s.setGfx (s.drawSprite x y n).1).setFlag f) := by
  intro c hc
  obtain ⟨hf, hs⟩ := not_or.mp hc
  refine (State.onlyChanges_setFlag _ f c hf).trans (s.component_setGfx _ ?_)
  rintro col row rfl
  exact s.drawSprite_outside x y n hs

/-! ### The obligations -/

/-- Settles O42: the low nibble 0 alone keys CLS in family 0, and the blank display is its one write. -/
theorem clearTurnsEveryPixelOff : Obligations.ClearTurnsEveryPixelOff := by
  unfold Obligations.ClearTurnsEveryPixelOff
  refine ⟨fun w hw hn => ?_, fun s => ⟨_, exec_cls s, fun c r => ?_, s.onlyChanges_setGfx _⟩⟩
  · rw [decodeWord_of_opField_eq_zero hw, decodeFamily0_of_nField_eq_zero hn]
  · exact pixel_blankDisplay c r

/-- Settles O44: the two clauses on VF are the two sides of the collision's law. -/
theorem drawSpriteXorsItsPixels : Obligations.DrawSpriteXorsItsPixels := by
  unfold Obligations.DrawSpriteXorsItsPixels
  refine ⟨fun w hw => decodeWord_of_opField_eq_thirteen hw, fun x y n s hwf => ?_⟩
  have hn : n < 16 := of_decide_eq_true hwf
  have hit := s.drawSprite_hit x y (n := n) (by omega)
  refine ⟨_, exec_drw x y n s, fun j k hj hk => s.drawSprite_inside x y (by omega) hj hk, ?_, ?_,
    s.onlyChanges_draw x y n _⟩
  · intro met
    rw [State.setFlag_getV_flag, flagByte_eq_one_iff]
    exact hit.mpr met
  · intro clear
    rw [State.setFlag_getV_flag, flagByte_eq_zero_iff, Bool.eq_false_iff, ne_eq, hit]
    rintro ⟨j, k, hj, hk, hb, hp⟩
    exact Bool.false_ne_true ((clear j k hj hk hb).symm.trans hp)

/-- Displays with the same pixels are equal. -/
theorem display_ext {g h : Display} (e : ∀ c r, pixel g c r = pixel h c r) : g = h := by
  refine Vector.ext fun r hr => BitVec.eq_of_getLsbD_eq fun c hc => ?_
  exact e ⟨c, hc⟩ ⟨r, hr⟩

/-- Whether a pixel is in the rectangle, as a case split. -/
theorem inSprite_pixel_or_not (xc yc n : Nat) (c : Fin 64) (r : Fin 32) :
    (∃ j k, j < 8 ∧ k < n ∧ c = column (xc + j) ∧ r = line (yc + k)) ∨
      ¬ inSprite xc yc n (.pixel c r) := by
  by_cases h : inSprite xc yc n (.pixel c r)
  · obtain ⟨j, k, hj, hk, e⟩ := h
    cases e
    exact .inl ⟨j, k, hj, hk, rfl, rfl⟩
  · exact .inr h

/-- Two states draw the same sprite at the same place. -/
structure SameSprite (x y : Reg) (s t : State) : Prop where
  left : t.getV x = s.getV x
  top : t.getV y = s.getV y
  bits : ∀ j k, t.spriteBit j k = s.spriteBit j k

/-- A draw leaves the sprite and its place, unless a coordinate is VF, which it writes. -/
theorem State.sameSprite_draw (s : State) {x y : Reg} (hx : x ≠ 15) (hy : y ≠ 15) (g : Display)
    (f : Bool) : SameSprite x y s ((s.setGfx g).setFlag f) where
  left := State.setFlag_getV_of_ne _ hx f
  top := State.setFlag_getV_of_ne _ hy f
  bits _ _ := rfl

/-- After a first draw the pixels of the rectangle hold the exclusive or. -/
theorem SameSprite.pixelUnder_after {x y : Reg} {n : Nat} {s t : State} (h : SameSprite x y s t)
    (hn : n ≤ 32) (ht : t.gfx = (s.drawSprite x y n).1) {j k : Nat} (hj : j < 8) (hk : k < n) :
    t.pixelUnder x y j k = (s.pixelUnder x y j k ^^ s.spriteBit j k) := by
  rw [← s.drawSprite_inside x y hn hj hk, State.pixelUnder, ht, h.left, h.top]

/-- A second draw of the same sprite undoes the first: in the rectangle each bit is exclusive-ored twice,
and no other pixel is drawn. -/
theorem SameSprite.redraw_gfx {x y : Reg} {n : Nat} {s t : State} (h : SameSprite x y s t)
    (hn : n ≤ 32) (ht : t.gfx = (s.drawSprite x y n).1) : (t.drawSprite x y n).1 = s.gfx := by
  refine display_ext fun c r => ?_
  obtain ⟨j, k, hj, hk, rfl, rfl⟩ | hout :=
    inSprite_pixel_or_not (s.getV x).toNat (s.getV y).toNat n c r
  · have twice := t.drawSprite_inside x y hn hj hk
    rw [h.left, h.top, h.pixelUnder_after hn ht hj hk, h.bits, Bool.xor_assoc, Bool.xor_self,
      Bool.xor_false] at twice
    exact twice
  · rw [t.drawSprite_outside x y n (by rwa [h.left, h.top]), ht, s.drawSprite_outside x y n hout]

/-- The second draw collides exactly when the first turned a pixel on: a set bit meets a pixel that is on
after the first draw just where it met one that was off before. -/
theorem SameSprite.redraw_hit {x y : Reg} {n : Nat} {s t : State} (h : SameSprite x y s t)
    (hn : n ≤ 32) (ht : t.gfx = (s.drawSprite x y n).1) :
    (t.drawSprite x y n).2 = true ↔ ∃ c r, pixel s.gfx c r = false ∧ pixel t.gfx c r = true := by
  rw [t.drawSprite_hit x y hn]
  constructor
  · rintro ⟨j, k, hj, hk, hb, hp⟩
    rw [h.bits] at hb
    have after := h.pixelUnder_after hn ht hj hk
    rw [hp, hb, Bool.xor_true] at after
    refine ⟨_, _, ?_, hp⟩
    rw [h.left, h.top]
    exact show s.pixelUnder x y j k = false by simpa using after.symm
  · rintro ⟨c, r, hoff, hon⟩
    obtain ⟨j, k, hj, hk, rfl, rfl⟩ | hout :=
      inSprite_pixel_or_not (s.getV x).toNat (s.getV y).toNat n c r
    · have hoff' : s.pixelUnder x y j k = false := hoff
      have hon' : t.pixelUnder x y j k = true := by rwa [State.pixelUnder, h.left, h.top]
      have after := h.pixelUnder_after hn ht hj hk
      rw [hon', hoff', Bool.false_xor] at after
      exact ⟨j, k, hj, hk, (h.bits j k).trans after.symm, hon'⟩
    · rw [ht, s.drawSprite_outside x y n hout, hoff] at hon
      exact absurd hon Bool.false_ne_true

/-- Settles O45: the second draw is of the same sprite at the same place. -/
theorem drawTwiceRestoresDisplay : Obligations.DrawTwiceRestoresDisplay := by
  unfold Obligations.DrawTwiceRestoresDisplay
  intro x y n s hwf hx hy
  have hn : n < 16 := of_decide_eq_true hwf
  have same := s.sameSprite_draw hx hy (s.drawSprite x y n).1 (s.drawSprite x y n).2
  refine ⟨_, _, exec_drw x y n s, exec_drw x y n _, same.redraw_gfx (by omega) rfl, ?_, ?_⟩
  · rw [State.setFlag_getV_flag, flagByte_toNat]
    split <;> decide
  · rw [State.setFlag_getV_flag, flagByte_eq_one_iff]
    exact same.redraw_hit (by omega) rfl

/-- On a clear display the exclusive or is the sprite's bit itself. -/
theorem State.drawSprite_inside_of_clear {s : State} (clear : ∀ c r, pixel s.gfx c r = false)
    (x y : Reg) {n : Nat} (hn : n ≤ 32) {j k : Nat} (hj : j < 8) (hk : k < n) :
    pixel (s.drawSprite x y n).1 (column ((s.getV x).toNat + j)) (line ((s.getV y).toNat + k)) =
      s.spriteBit j k := by
  rw [s.drawSprite_inside x y hn hj hk, State.pixelUnder, clear, Bool.false_xor]

/-- On a clear display no set bit can meet a set pixel. -/
theorem State.drawSprite_no_hit_of_clear {s : State} (clear : ∀ c r, pixel s.gfx c r = false)
    (x y : Reg) {n : Nat} (hn : n ≤ 32) : (s.drawSprite x y n).2 = false := by
  rw [Bool.eq_false_iff, ne_eq, s.drawSprite_hit x y hn]
  rintro ⟨j, k, -, -, -, hp⟩
  exact Bool.false_ne_true ((clear _ _).symm.trans hp)

/-- Settles O55: LD F leaves the display clear and points I at the glyph, whose bits the draw then shows. -/
theorem digitIsDrawnFromFont : Obligations.DigitIsDrawnFromFont := by
  unfold Obligations.DigitIsDrawnFromFont
  intro font f x y s hs clear d hd hf
  have draw := exec_drw x y 5 (s.setI (glyphAddress (s.getV f)))
  have clear' : ∀ c r, pixel (s.setI (glyphAddress (s.getV f))).gfx c r = false := clear
  refine ⟨_, _, exec_ldF f s, draw, ?_, ?_, ?_⟩
  · intro j k hk hj
    rw [State.setFlag_gfx, State.setGfx_gfx]
    have shown := State.drawSprite_inside_of_clear clear' x y (n := 5) (by decide) hj hk
    rwa [State.spriteBit, State.setI_memRead, State.setI_i, s.memRead_glyph hs hf hd hk,
      State.setI_getV, State.setI_getV] at shown
  · rw [State.setFlag_getV_flag, State.drawSprite_no_hit_of_clear clear' x y (by decide)]
    rfl
  · exact ((s.onlyChanges_setI _).mono fun _ => .inl).trans
      ((State.onlyChanges_draw _ x y 5 _).mono fun _ => .inr)

end Sys2Proof.Machine
end

section
/-! PROOFS. The rest of spec 40_flow.md, 41_skip.md, 42_alu.md and the key wait of 45_timer_key.md: what
CALL and RET can answer (R101, R102) and that they undo each other, the skips on registers and keys (R113 to
R116), the bitwise operations, shifts and draws (R126 to R134), and Fx0A (R163). -/

namespace Sys2Proof.Machine

/-! ### Frames of single writes -/

/-- The frame of a write to `pc`. -/
theorem State.onlyChanges_setPc (s : State) (w : Word) : OnlyChanges (· = .pc) s (s.setPc w) :=
  fun _ hc => s.component_setPc w hc

/-- The frame of a write to `sp`. -/
theorem State.onlyChanges_setSp (s : State) (b : Byte) : OnlyChanges (· = .sp) s (s.setSp b) :=
  fun _ hc => s.component_setSp b hc

/-- The frame of a write to a stack cell. -/
theorem State.onlyChanges_setCell (s : State) (k : Fin 16) (w : Word) :
    OnlyChanges (· = .cell k) s (s.setCell k w) :=
  fun _ hc => s.component_setCell k w hc

/-- The frame of a draw from the free values. -/
theorem State.onlyChanges_countDraw (s : State) : OnlyChanges (· = .draws) s s.countDraw :=
  fun _ hc => s.component_countDraw hc

/-! ### CALL and RET -/

/-- The state a CALL leaves when the cell `k` is free: the push, then the jump (R101). -/
def State.called (s : State) (k : Fin 16) (nnn : Addr) : State :=
  ((s.setCell k s.pc).setSp (s.sp + 1)).setPc (zextAddr nnn)

/-- The state a RET leaves when the cell `k` is the last live one (R102). -/
def State.returned (s : State) (k : Fin 16) : State := (s.setSp (s.sp - 1)).setPc s.stack[k]

/-- CALL with a free cell. -/
theorem exec_call_of_free (nnn : Addr) {s : State} {k : Fin 16} (hk : s.sp.toNat = k.val) :
    exec (.call nnn) s = .next (s.called k nnn) := by
  have hfree : s.sp.toNat < 16 := by omega
  have hcell : (⟨s.sp.toNat, hfree⟩ : Fin 16) = k := Fin.ext hk
  simp only [exec, execCall, s.pushPc_ok hfree, hcell, State.called]

/-- CALL with no free cell. -/
theorem exec_call_of_full (nnn : Addr) {s : State} (h : 16 ≤ s.sp.toNat) :
    exec (.call nnn) s = .fault .stackOverflow := by
  simp only [exec, execCall, s.pushPc_full h, raise]

/-- Everything CALL can answer. -/
theorem exec_call_cases (nnn : Addr) (s : State) :
    (∃ k : Fin 16, s.sp.toNat = k.val ∧ exec (.call nnn) s = .next (s.called k nnn)) ∨
    (16 ≤ s.sp.toNat ∧ exec (.call nnn) s = .fault .stackOverflow) := by
  by_cases h : s.sp.toNat < 16
  · exact .inl ⟨⟨_, h⟩, rfl, exec_call_of_free nnn rfl⟩
  · exact .inr ⟨Nat.le_of_not_lt h, exec_call_of_full nnn (Nat.le_of_not_lt h)⟩

/-- RET with a live cell. -/
theorem exec_ret_of_live {s : State} {k : Fin 16} (hk : s.sp.toNat = k.val + 1) :
    exec .ret s = .next (s.returned k) := by
  have h0 : s.sp ≠ 0 := fun e => by simp [e] at hk
  have hcell : s.sp.toNat - 1 = k.val := by omega
  simp only [exec, execRet, s.popPc_ok h0 (by omega), hcell, State.returned]
  rfl

/-- RET with no live cell. -/
theorem exec_ret_of_empty {s : State} (h : s.sp.toNat = 0) : exec .ret s = .fault .stackUnderflow := by
  have h0 : s.sp = 0 := BitVec.eq_of_toNat_eq h
  simp only [exec, execRet, s.popPc_empty h0, raise]

/-- RET with `sp` above its range (log 4). -/
theorem exec_ret_of_outside {s : State} (h : 16 < s.sp.toNat) :
    exec .ret s = .fault .stackPointerOutOfRange := by
  simp only [exec, execRet, s.popPc_outside h, raise]

/-- Everything RET can answer. -/
theorem exec_ret_cases (s : State) :
    (∃ k : Fin 16, s.sp.toNat = k.val + 1 ∧ exec .ret s = .next (s.returned k)) ∨
    (s.sp.toNat = 0 ∧ exec .ret s = .fault .stackUnderflow) ∨
    (16 < s.sp.toNat ∧ exec .ret s = .fault .stackPointerOutOfRange) := by
  obtain h | h | h : s.sp.toNat = 0 ∨ 16 < s.sp.toNat ∨ (1 ≤ s.sp.toNat ∧ s.sp.toNat ≤ 16) := by omega
  · exact .inr (.inl ⟨h, exec_ret_of_empty h⟩)
  · exact .inr (.inr ⟨h, exec_ret_of_outside h⟩)
  · have hk : s.sp.toNat = (⟨s.sp.toNat - 1, by omega⟩ : Fin 16).val + 1 := by simp; omega
    exact .inl ⟨_, hk, exec_ret_of_live hk⟩

/-- The frame of a CALL that goes on. -/
theorem State.onlyChanges_called (s : State) (k : Fin 16) (nnn : Addr) :
    OnlyChanges (fun c => c = .pc ∨ c = .sp ∨ c = .cell k) s (s.called k nnn) :=
  (((s.onlyChanges_setCell k _).mono fun _ h => .inr (.inr h)).trans
    ((State.onlyChanges_setSp _ _).mono fun _ h => .inr (.inl h))).trans
    ((State.onlyChanges_setPc _ _).mono fun _ h => .inl h)

/-- The frame of a RET that goes on: the popped cell keeps its value (R34). -/
theorem State.onlyChanges_returned (s : State) (k : Fin 16) :
    OnlyChanges (fun c => c = .pc ∨ c = .sp) s (s.returned k) :=
  ((s.onlyChanges_setSp _).mono fun _ h => .inr h).trans
    ((State.onlyChanges_setPc _ _).mono fun _ h => .inl h)

@[simp] theorem State.called_stack_same (s : State) (k : Fin 16) (nnn : Addr) :
    (s.called k nnn).stack[k] = s.pc := by
  simp [State.called]

theorem State.called_sp_toNat {s : State} {k : Fin 16} (hk : s.sp.toNat = k.val) (nnn : Addr) :
    (s.called k nnn).sp.toNat = k.val + 1 := by
  rw [← hk]
  exact toNat_succ (by omega)

theorem State.returned_sp_toNat {s : State} {k : Fin 16} (hk : s.sp.toNat = k.val + 1) :
    (s.returned k).sp.toNat = k.val := by
  have h0 : s.sp ≠ 0 := fun e => by simp [e] at hk
  refine (toNat_pred h0).trans ?_
  rw [hk, Nat.add_sub_cancel]

/-- Settles O19: the push is the first write, so the cell holds the advanced `pc` and not the target. -/
theorem callPushesReturnAddress : Obligations.CallPushesReturnAddress := by
  unfold Obligations.CallPushesReturnAddress
  refine ⟨fun _ hw => decodeWord_of_opField_eq_two hw, fun nnn s k hk => ?_,
    fun nnn s h => exec_call_of_full nnn h⟩
  exact ⟨_, exec_call_of_free nnn hk, zextAddr_toNat nnn, s.called_stack_same k nnn,
    State.called_sp_toNat hk nnn, s.onlyChanges_called k nnn⟩

/-- Settles O20: one clause for each of the three things RET can find. -/
theorem retPopsReturnAddress : Obligations.RetPopsReturnAddress := by
  unfold Obligations.RetPopsReturnAddress
  refine ⟨fun _ hw hn => ?_, fun s k hk => ?_, fun s h => exec_ret_of_empty h,
    fun s h => exec_ret_of_outside h⟩
  · rw [decodeWord_of_opField_eq_zero hw, decodeFamily0_of_nField_eq_fourteen hn]
  · exact ⟨_, exec_ret_of_live hk, rfl, State.returned_sp_toNat hk, s.onlyChanges_returned k⟩

/-- Settles O21: a CALL that completes had a free cell k, which the RET finds to be the last live one. -/
theorem retUndoesCall : Obligations.RetUndoesCall := by
  unfold Obligations.RetUndoesCall
  intro nnn s t t' ht hsp hstack
  obtain ⟨k, hk, hcall⟩ | ⟨-, hfull⟩ := exec_call_cases nnn s
  · obtain rfl : s.called k nnn = t := Host.Outcome.next.inj (hcall.symm.trans ht)
    have hlive : t'.sp.toNat = k.val + 1 := by rw [hsp, State.called_sp_toNat hk]
    refine ⟨_, exec_ret_of_live hlive, ?_, ?_⟩
    · exact (congrArg (·[k]) hstack).trans (s.called_stack_same k nnn)
    · exact BitVec.eq_of_toNat_eq ((State.returned_sp_toNat hlive).trans hk.symm)
  · rw [hfull] at ht
    cases ht

/-- JP V0 as an effect (R103). -/
theorem exec_jpV0 (nnn : Addr) (s : State) :
    exec (.jpV0 nnn) s = .next (s.setPc (zextAddr nnn + zextByte (s.getV 0))) := rfl

/-- The sum of a 12-bit and an 8-bit value fits 16 bits, so nothing is reduced (R103). -/
theorem zextAddr_add_zextByte_toNat (nnn : Addr) (b : Byte) :
    (zextAddr nnn + zextByte b).toNat = nnn.toNat + b.toNat := by
  have hn : nnn.toNat < 4096 := nnn.isLt
  have hb : b.toNat < 256 := b.isLt
  rw [BitVec.toNat_add, zextAddr_toNat, zextByte_toNat]
  omega

/-- Settles O22: the sum is at most 0x10FE. -/
theorem jumpV0AddsOffset : Obligations.JumpV0AddsOffset := by
  unfold Obligations.JumpV0AddsOffset
  refine ⟨fun _ hw => decodeWord_of_opField_eq_eleven hw, fun nnn s => ?_⟩
  exact ⟨_, exec_jpV0 nnn s, zextAddr_add_zextByte_toNat nnn _, s.onlyChanges_setPc _⟩

/-! ### Skips -/

/-- SE Vx, Vy as an effect (R113). -/
theorem exec_seReg (x y : Reg) (s : State) :
    exec (.seReg x y) s = .next (s.skipIf (s.getV x == s.getV y)) := rfl

/-- SNE Vx, Vy as an effect: the skip on the negated condition (R114). -/
theorem exec_sneReg (x y : Reg) (s : State) :
    exec (.sneReg x y) s = .next (s.skipIf (!(s.getV x == s.getV y))) := rfl

/-- SKP as an effect (R115). -/
theorem exec_skp (x : Reg) (s : State) : exec (.skp x) s = .next (s.skipIf (s.keySelected x)) := rfl

/-- SKNP as an effect: the skip on the negated condition (R116). -/
theorem exec_sknp (x : Reg) (s : State) : exec (.sknp x) s = .next (s.skipIf (!s.keySelected x)) := rfl

/-- The key that V[x] selects is its value mod 16 (R115, decision D6). -/
theorem State.keySelected_eq (s : State) {x : Reg} {k : Fin 16} (hk : k.val = (s.getV x).toNat % 16) :
    s.keySelected x = s.key[k] := by
  obtain rfl : k = keyIndex (s.getV x) := Fin.ext hk
  rfl

/-- Settles O24: SE and SNE are the skip's law at the one condition `V[x] == V[y]`. -/
theorem skipsOnRegisters : Obligations.SkipsOnRegisters := by
  unfold Obligations.SkipsOnRegisters
  refine ⟨fun _ hw => decodeWord_of_opField_eq_five hw,
    fun _ hw => decodeWord_of_opField_eq_nine hw, fun x y s => ⟨?_, ?_⟩⟩
  · refine ⟨_, exec_seReg x y s, s.onlyChanges_skipIf _, ?_⟩
    simpa only [beq_iff_eq] using s.skipIf_pc_toNat (s.getV x == s.getV y)
  · refine ⟨_, exec_sneReg x y s, s.onlyChanges_skipIf _, ?_⟩
    simpa only [beq_iff_eq] using s.skipIf_not_pc_toNat (s.getV x == s.getV y)

/-- Settles O25: SKP and SKNP are the skip's law at the one key that V[x] selects. -/
theorem skipsOnKeys : Obligations.SkipsOnKeys := by
  unfold Obligations.SkipsOnKeys
  refine ⟨fun _ hw hn => ?_, fun _ hw hn => ?_, fun x s k hk => ⟨?_, ?_⟩⟩
  · rw [decodeWord_of_opField_eq_fourteen hw, decodeFamilyE_of_nField_eq_fourteen hn]
  · rw [decodeWord_of_opField_eq_fourteen hw, decodeFamilyE_of_nField_eq_one hn]
  · refine ⟨_, exec_skp x s, s.onlyChanges_skipIf _, ?_⟩
    rw [s.keySelected_eq hk, State.skipIf_pc_toNat]
  · refine ⟨_, exec_sknp x s, s.onlyChanges_skipIf _, ?_⟩
    rw [s.keySelected_eq hk, State.skipIf_not_pc_toNat]

/-! ### Bits, shifts and draws -/

/-- OR as an effect (R126). -/
theorem exec_orReg (x y : Reg) (s : State) :
    exec (.orReg x y) s = .next (s.setV x (s.getV x ||| s.getV y)) := rfl

/-- AND as an effect (R127). -/
theorem exec_andReg (x y : Reg) (s : State) :
    exec (.andReg x y) s = .next (s.setV x (s.getV x &&& s.getV y)) := rfl

/-- XOR as an effect (R128). -/
theorem exec_xorReg (x y : Reg) (s : State) :
    exec (.xorReg x y) s = .next (s.setV x (s.getV x ^^^ s.getV y)) := rfl

/-- SHR as an effect (R131). -/
theorem exec_shr (x y : Reg) (s : State) :
    exec (.shr x y) s =
      .next (s.setResultAndFlag x (halfOf (s.getV x)) (lowBitOf (s.getV x))) := rfl

/-- SHL as an effect (R133). -/
theorem exec_shl (x y : Reg) (s : State) :
    exec (.shl x y) s =
      .next (s.setResultAndFlag x (doubleOf (s.getV x)) (highBitOf (s.getV x))) := rfl

/-- RND as an effect: the masked free value, and the draw used up (R134). -/
theorem exec_rnd (x : Reg) (kk : Byte) (s : State) :
    exec (.rnd x kk) s = .next ((s.setV x (kk &&& Config.draw8 s.draws)).countDraw) := rfl

/-- A bit as the number its flag holds is that digit of the binary expansion. -/
theorem flagByte_getLsbD_toNat (a : Byte) (k : Nat) :
    (flagByte (a.getLsbD k)).toNat = a.toNat / 2 ^ k % 2 := by
  rw [flagByte_toNat, BitVec.getLsbD, Nat.testBit_eq_decide_div_mod_eq]
  simp only [decide_eq_true_eq]
  split <;> omega

/-- The bit SHR shifts out as a number (R131). -/
theorem flagByte_lowBitOf_toNat (a : Byte) : (flagByte (lowBitOf a)).toNat = a.toNat % 2 := by
  rw [lowBitOf, flagByte_getLsbD_toNat, Nat.pow_zero, Nat.div_one]

/-- The bit SHL shifts out as a number: there is no bit above it (R133). -/
theorem flagByte_highBitOf_toNat (a : Byte) : (flagByte (highBitOf a)).toNat = a.toNat / 128 := by
  have ha : a.toNat < 256 := a.isLt
  rw [highBitOf, flagByte_getLsbD_toNat]
  omega

/-- The frame of RND. -/
theorem State.onlyChanges_rnd (s : State) (x : Reg) (b : Byte) :
    OnlyChanges (fun c => c = .reg x ∨ c = .draws) s (s.setV x b).countDraw :=
  ((s.onlyChanges_setV x b).mono fun _ => .inl).trans
    ((State.onlyChanges_countDraw _).mono fun _ => .inr)

/-- Settles O28: each is one register write, so no flag is in its frame. -/
theorem bitwiseOperationsHaveNoFlag : Obligations.BitwiseOperationsHaveNoFlag := by
  unfold Obligations.BitwiseOperationsHaveNoFlag
  refine ⟨fun _ hw hn => ?_, fun _ hw hn => ?_, fun _ hw hn => ?_, fun x y s => ⟨?_, ?_, ?_⟩⟩
  · rw [decodeWord_of_opField_eq_eight hw, decodeFamily8_of_nField_eq_one hn]
  · rw [decodeWord_of_opField_eq_eight hw, decodeFamily8_of_nField_eq_two hn]
  · rw [decodeWord_of_opField_eq_eight hw, decodeFamily8_of_nField_eq_three hn]
  · refine ⟨_, exec_orReg x y s, s.onlyChanges_setV x _, fun b => ?_⟩
    rw [State.getV_setV_same, BitVec.getLsbD_or]
  · refine ⟨_, exec_andReg x y s, s.onlyChanges_setV x _, fun b => ?_⟩
    rw [State.getV_setV_same, BitVec.getLsbD_and]
  · refine ⟨_, exec_xorReg x y s, s.onlyChanges_setV x _, fun b => ?_⟩
    rw [State.getV_setV_same, BitVec.getLsbD_xor]

/-- Settles O32: with x = 15 the shifted-out bit is written over the half. -/
theorem shiftRightSetsLowBit : Obligations.ShiftRightSetsLowBit := by
  unfold Obligations.ShiftRightSetsLowBit
  refine ⟨fun _ hw hn => ?_, fun x y s => ⟨_, exec_shr x y s, fun hx => ?_, ?_,
    s.onlyChanges_setResultAndFlag x _ _⟩⟩
  · rw [decodeWord_of_opField_eq_eight hw, decodeFamily8_of_nField_eq_six hn]
  · rw [State.setResultAndFlag_result s hx, halfOf_toNat]
  · rw [State.setResultAndFlag_flag, flagByte_lowBitOf_toNat]

/-- Settles O33: with x = 15 the shifted-out bit is written over the double. -/
theorem shiftLeftSetsHighBit : Obligations.ShiftLeftSetsHighBit := by
  unfold Obligations.ShiftLeftSetsHighBit
  refine ⟨fun _ hw hn => ?_, fun x y s => ⟨_, exec_shl x y s, fun hx => ?_, ?_,
    s.onlyChanges_setResultAndFlag x _ _⟩⟩
  · rw [decodeWord_of_opField_eq_eight hw, decodeFamily8_of_nField_eq_fourteen hn]
  · rw [State.setResultAndFlag_result s hx, doubleOf_toNat]
  · rw [State.setResultAndFlag_flag, flagByte_highBitOf_toNat]

/-- Settles O34: a bit that is 0 in `kk` is 0 in the conjunction, whatever the free value. -/
theorem randomByteIsMasked : Obligations.RandomByteIsMasked := by
  unfold Obligations.RandomByteIsMasked
  refine ⟨fun _ hw => decodeWord_of_opField_eq_twelve hw, fun x kk s => ?_⟩
  refine ⟨_, exec_rnd x kk s, s.getV_setV_same x _, fun b hb => ?_, rfl, s.onlyChanges_rnd x _⟩
  rw [State.countDraw_getV, State.getV_setV_same, BitVec.getLsbD_and, hb, Bool.false_and]

/-! ### The key wait (R163) -/

/-- The scan finds the lowest set key. -/
theorem State.firstKey_of_lowest {s : State} {k : Fin 16} (hk : s.key[k] = true)
    (hlow : ∀ j : Fin 16, j < k → s.key[j] = false) : s.firstKey = some k := by
  cases h : s.firstKey with
  | none => exact absurd (hk.symm.trans (s.firstKey_eq_none h k)) (by decide)
  | some j =>
    obtain ⟨hj, hjlow⟩ := s.firstKey_eq_some h
    obtain hlt | rfl | hgt := lt_trichotomy j k
    · exact absurd (hj.symm.trans (hlow j hlt)) (by decide)
    · rfl
    · exact absurd (hk.symm.trans (hjlow k hgt)) (by decide)

/-- With no key set the scan finds none. -/
theorem State.firstKey_of_clear {s : State} (h : ∀ k : Fin 16, s.key[k] = false) :
    s.firstKey = none := by
  cases hf : s.firstKey with
  | none => rfl
  | some j => exact absurd ((s.firstKey_eq_some hf).1.symm.trans (h j)) (by decide)

/-- LD Vx, K with a key set. -/
theorem exec_ldVxK_of_some (x : Reg) {s : State} {k : Fin 16} (h : s.firstKey = some k) :
    exec (.ldVxK x) s = .next (s.setV x (BitVec.ofNat 8 k.val)) := by
  simp only [exec, execLdVxK, h]

/-- LD Vx, K with no key set: back by the fetch's advance. -/
theorem exec_ldVxK_of_none (x : Reg) {s : State} (h : s.firstKey = none) :
    exec (.ldVxK x) s = .next (s.setPc (s.pc - 2)) := by
  simp only [exec, execLdVxK, h]

/-- Going back by 2 undoes an advance by 2, mod 2^16. -/
theorem word_sub_two_add_two_toNat (w : Word) : ((w - 2).toNat + 2) % 65536 = w.toNat := by
  bv_omega

/-- Settles O47: the two clauses are the two answers of the scan. -/
theorem keyWaitCapturesLowestKey : Obligations.KeyWaitCapturesLowestKey := by
  unfold Obligations.KeyWaitCapturesLowestKey
  refine ⟨fun _ hw hk => ?_, fun x s k hk hlow => ?_, fun x s hclear => ?_⟩
  · rw [decodeWord_of_opField_eq_fifteen hw, decodeFamilyF_of_kkField_eq_0x0A hk]
  · refine ⟨_, exec_ldVxK_of_some x (State.firstKey_of_lowest hk hlow), ?_, s.onlyChanges_setV x _⟩
    rw [State.getV_setV_same, BitVec.toNat_ofNat, Nat.mod_eq_of_lt (by omega)]
  · exact ⟨_, exec_ldVxK_of_none x (State.firstKey_of_clear hclear), word_sub_two_add_two_toNat s.pc,
      s.onlyChanges_setPc _⟩

/-- Settles O48: the instruction takes the fetch's advance back, so only the latched word is left of the
Step. -/
theorem keyWaitSpinsUnchanged : Obligations.KeyWaitSpinsUnchanged := by
  unfold Obligations.KeyWaitSpinsUnchanged
  intro x s hi hclear
  calc step s
      = exec (.ldVxK x) s.fetched := step_of_decodeWord_eq_some hi
    _ = .next (s.fetched.setPc (s.fetched.pc - 2)) :=
      exec_ldVxK_of_none x (State.firstKey_of_clear hclear)
    _ = .next (s.fetched.setPc s.pc) := by rw [State.fetched_pc, BitVec.add_sub_cancel]
    _ = .next ((s.setOpcode s.fetchWord).setPc s.pc) := by rw [State.fetched_setPc]
    _ = .next (s.setOpcode s.fetchWord) := congrArg _ (State.setPc_self (s.setOpcode s.fetchWord))

end Sys2Proof.Machine
end

section
/-! PROOFS. The rules of the whole machine: what an instruction can answer at all (60_exceptions.md R173)
and what it changes (00_scope.md R19), the conditions of a Step and the state they leave (60_exceptions.md),
the invariant along every schedule of the host (10_state.md R43), and the host's operations. -/

namespace Sys2Proof.Machine

/-! ### What an instruction can answer -/

/-- Settles O17. Only the key wait branches, and both its branches complete. -/
theorem everyOtherInstructionCompletes : Obligations.EveryOtherInstructionCompletes := by
  unfold Obligations.EveryOtherInstructionCompletes
  intro i s hret hcall
  cases i with
  | ret => exact absurd rfl hret
  | call nnn => exact absurd rfl (hcall nnn)
  | ldVxK x =>
    cases hk : s.firstKey with
    | some k => exact ⟨_, exec_ldVxK_of_some x hk⟩
    | none => exact ⟨_, exec_ldVxK_of_none x hk⟩
  | _ => exact ⟨_, rfl⟩

/-- Everything `exec` can answer: a next state, or one of the three stack conditions. -/
theorem exec_cases (i : Instr) (s : State) :
    (∃ t, exec i s = .next t) ∨
    (∃ nnn, i = .call nnn ∧ 16 ≤ s.sp.toNat ∧ exec i s = .fault .stackOverflow) ∨
    (i = .ret ∧ s.sp.toNat = 0 ∧ exec i s = .fault .stackUnderflow) ∨
    (i = .ret ∧ 16 < s.sp.toNat ∧ exec i s = .fault .stackPointerOutOfRange) := by
  by_cases hret : i = .ret
  · subst hret
    obtain ⟨k, -, h⟩ | ⟨h0, h⟩ | ⟨hout, h⟩ := exec_ret_cases s
    · exact .inl ⟨_, h⟩
    · exact .inr (.inr (.inl ⟨rfl, h0, h⟩))
    · exact .inr (.inr (.inr ⟨rfl, hout, h⟩))
  by_cases hcall : ∃ nnn, i = .call nnn
  · obtain ⟨nnn, rfl⟩ := hcall
    obtain ⟨k, -, h⟩ | ⟨hfull, h⟩ := exec_call_cases nnn s
    · exact .inl ⟨_, h⟩
    · exact .inr (.inl ⟨nnn, rfl, hfull, h⟩)
  · exact .inl (everyOtherInstructionCompletes i s hret fun nnn e => hcall ⟨nnn, e⟩)

/-! ### What an instruction changes -/

/-- The frame of CALL, whichever cell it pushes to. -/
theorem exec_call_frame {nnn : Addr} {s t : State} (ht : exec (.call nnn) s = .next t) :
    OnlyChanges (namedByRow (.call nnn) s) s t := by
  obtain ⟨k, hk, h⟩ | ⟨-, h⟩ := exec_call_cases nnn s
  · cases h.symm.trans ht
    refine (s.onlyChanges_called k nnn).mono fun c hc => ?_
    obtain hc | hc | hc := hc
    · exact .inl hc
    · exact .inr (.inl hc)
    · exact .inr (.inr ⟨k, hk.symm, hc⟩)
  · cases h.symm.trans ht

/-- The frame of RET. -/
theorem exec_ret_frame {s t : State} (ht : exec .ret s = .next t) :
    OnlyChanges (namedByRow .ret s) s t := by
  obtain ⟨k, -, h⟩ | ⟨-, h⟩ | ⟨-, h⟩ := exec_ret_cases s
  · cases h.symm.trans ht
    exact s.onlyChanges_returned k
  · cases h.symm.trans ht
  · cases h.symm.trans ht

/-- The frame of the key wait: V[x] when it captures, `pc` when it goes back. -/
theorem exec_ldVxK_frame {x : Reg} {s t : State} (ht : exec (.ldVxK x) s = .next t) :
    OnlyChanges (namedByRow (.ldVxK x) s) s t := by
  cases hk : s.firstKey with
  | some k =>
    cases (exec_ldVxK_of_some x hk).symm.trans ht
    exact (s.onlyChanges_setV x _).mono fun c hc => by simpa [namedByRow, hk] using hc
  | none =>
    cases (exec_ldVxK_of_none x hk).symm.trans ht
    exact (s.onlyChanges_setPc _).mono fun c hc => by simpa [namedByRow, hk] using hc

/-- Settles O14: every row is the frame of its instruction's one update, or of two in a row. -/
theorem instructionsChangeOnlyWhatTheirRowsName :
    Obligations.InstructionsChangeOnlyWhatTheirRowsName := by
  unfold Obligations.InstructionsChangeOnlyWhatTheirRowsName
  intro i s t ht
  cases i with
  | cls => cases ht; exact s.onlyChanges_setGfx _
  | ret => exact exec_ret_frame ht
  | call nnn => exact exec_call_frame ht
  | jp | jpV0 => cases ht; exact s.onlyChanges_setPc _
  | seImm | sneImm | seReg | sneReg | skp | sknp => cases ht; exact s.onlyChanges_skipIf _
  | ldImm x | addImm x | ldReg x | orReg x | andReg x | xorReg x | ldVxDt x =>
    cases ht; exact s.onlyChanges_setV x _
  | addReg x | subReg x | shr x | subnReg x | shl x =>
    cases ht; exact s.onlyChanges_setResultAndFlag x _ _
  | ldI | addI | ldF => cases ht; exact s.onlyChanges_setI _
  | rnd x => cases ht; exact s.onlyChanges_rnd x _
  | drw x y n => cases ht; exact s.onlyChanges_draw x y n _
  | ldVxK x => exact exec_ldVxK_frame ht
  | ldDtVx => cases ht; exact s.onlyChanges_setDt _
  | ldStVx => cases ht; exact s.onlyChanges_setSt _
  | ldB x => cases ht; exact s.onlyChanges_memWriteBytes _ (decimalDigits (s.getV x))
  | ldMemV x => cases ht; exact s.onlyChanges_store_regsUpTo _ x
  | ldVMem x => cases ht; exact s.onlyChanges_loadRegs _ x

/-- No row names a key (R35). -/
theorem key_not_namedByRow (i : Instr) (s : State) (k : Fin 16) : ¬ namedByRow i s (.key k) := by
  cases i with
  | ldVxK x => cases hk : s.firstKey <;> simp [namedByRow, hk]
  | _ => simp [namedByRow, inBytes, inSprite]

/-- Only CALL and RET name `sp`. -/
theorem sp_not_namedByRow {i : Instr} (hret : i ≠ .ret) (hcall : ∀ nnn, i ≠ .call nnn) (s : State) :
    ¬ namedByRow i s .sp := by
  cases i with
  | ret => exact absurd rfl hret
  | call nnn => exact absurd rfl (hcall nnn)
  | ldVxK x => cases hk : s.firstKey <;> simp [namedByRow, hk]
  | _ => simp [namedByRow, inBytes, inSprite]

/-- A key component as a number determines the key. -/
theorem bool_toNat_injective : Function.Injective Bool.toNat := by decide

/-- No instruction changes a key. -/
theorem exec_key {i : Instr} {s t : State} (ht : exec i s = .next t) (k : Fin 16) :
    t.key[k] = s.key[k] :=
  bool_toNat_injective
    (instructionsChangeOnlyWhatTheirRowsName i s t ht (.key k) (key_not_namedByRow i s k))

/-- A store is the only change to memory, and LD B and LD [I], Vx are the only stores. -/
theorem exec_mem {i : Instr} {s t : State} (ht : exec i s = .next t) :
    t.mem = s.mem ∨ ∃ a bs, t.mem = (s.memWriteBytes a bs).mem := by
  cases i with
  | ret =>
    obtain ⟨k, -, h⟩ | ⟨-, h⟩ | ⟨-, h⟩ := exec_ret_cases s <;> cases h.symm.trans ht
    exact .inl rfl
  | call nnn =>
    obtain ⟨k, -, h⟩ | ⟨-, h⟩ := exec_call_cases nnn s <;> cases h.symm.trans ht
    exact .inl rfl
  | seImm | sneImm | seReg | sneReg | skp | sknp => cases ht; exact .inl (s.skipIf_mem _)
  | ldVxK x =>
    cases hk : s.firstKey with
    | some k => cases (exec_ldVxK_of_some x hk).symm.trans ht; exact .inl rfl
    | none => cases (exec_ldVxK_of_none x hk).symm.trans ht; exact .inl rfl
  | ldB | ldMemV => cases ht; exact .inr ⟨_, _, rfl⟩
  | _ => cases ht; exact .inl rfl

/-! ### The invariant (R43) -/

/-- The invariant speaks of `sp` and memory only. -/
theorem State.Inv.congr {s t : State} (hs : s.Inv) (hsp : t.sp = s.sp) (hmem : t.mem = s.mem) :
    t.Inv := by
  rwa [State.Inv, hsp, hmem]

theorem State.Inv.memWriteBytes {s : State} (hs : s.Inv) (a : Nat) (bs : List Byte) :
    (s.memWriteBytes a bs).Inv :=
  ⟨by rw [State.memWriteBytes_sp]; exact hs.1, s.memWriteBytes_wf a bs hs.2⟩

/-- Every instruction keeps `sp` in 0 to 16: CALL needs a free cell, and RET a live one. -/
theorem exec_keeps_sp {i : Instr} {s t : State} (hs : s.sp.toNat ≤ 16) (ht : exec i s = .next t) :
    t.sp.toNat ≤ 16 := by
  by_cases hret : i = .ret
  · subst hret
    obtain ⟨k, hk, h⟩ | ⟨-, h⟩ | ⟨-, h⟩ := exec_ret_cases s <;> cases h.symm.trans ht
    rw [State.returned_sp_toNat hk]
    omega
  by_cases hcall : ∃ nnn, i = .call nnn
  · obtain ⟨nnn, rfl⟩ := hcall
    obtain ⟨k, hk, h⟩ | ⟨-, h⟩ := exec_call_cases nnn s <;> cases h.symm.trans ht
    rw [State.called_sp_toNat hk]
    omega
  · have frame := instructionsChangeOnlyWhatTheirRowsName i s t ht .sp
      (sp_not_namedByRow hret (fun nnn e => hcall ⟨nnn, e⟩) s)
    exact frame.trans_le hs

/-- Every instruction keeps the invariant. -/
theorem exec_keeps_inv {i : Instr} {s t : State} (hs : s.Inv) (ht : exec i s = .next t) : t.Inv := by
  refine ⟨exec_keeps_sp hs.1 ht, ?_⟩
  obtain hmem | ⟨a, bs, hmem⟩ := exec_mem ht <;> rw [hmem]
  · exact hs.2
  · exact s.memWriteBytes_wf a bs hs.2

/-- The fetch keeps the invariant. -/
theorem State.Inv.fetched {s : State} (hs : s.Inv) : s.fetched.Inv := hs.congr rfl rfl

/-- A Step that goes on has run the instruction its word decodes to. -/
theorem step_eq_next {s t : State} (ht : step s = .next t) :
    ∃ i, decodeWord s.fetchWord = some i ∧ exec i s.fetched = .next t := by
  cases hd : decodeWord s.fetchWord with
  | some i => exact ⟨i, rfl, (step_of_decodeWord_eq_some hd).symm.trans ht⟩
  | none => cases (step_of_decodeWord_eq_none hd).symm.trans ht

/-- Settles O12: the fetch and the instruction each keep the invariant. -/
theorem stepKeepsInvariant : Obligations.StepKeepsInvariant := by
  unfold Obligations.StepKeepsInvariant
  intro s t hs ht
  obtain ⟨i, -, hi⟩ := step_eq_next ht
  exact exec_keeps_inv hs.fetched hi

/-- Settles O11: no cell is live and no byte is listed. -/
theorem resetMeetsInvariant : Obligations.ResetMeetsInvariant := by
  unfold Obligations.ResetMeetsInvariant
  exact ⟨Nat.zero_le 16, rfl⟩

/-- The state after the operation `Reset` meets the invariant, whatever the state before. -/
theorem resetState_inv (s : State) : (resetState s).Inv := resetMeetsInvariant.congr rfl rfl

/-- `Reset` is defined on every session (R178, R190). -/
theorem perform_reset (h : Session) : perform .reset h = .next (sessionAfterReset h.state) := by
  by_cases hr : h.Running
  · exact perform_running hr .reset
  · exact perform_stopped hr .reset

/-- After a condition every operation but `Reset` is refused (R177). -/
theorem perform_refused_of_stopped {h : Session} (hr : ¬ h.Running) {op : Operation}
    (hop : op ≠ .reset) : perform op h = .refused .operationAfterCondition := by
  rw [perform_stopped hr]
  cases op with
  | reset => exact absurd rfl hop
  | step | timerTick | keyWrite | load => rfl

/-- A run's operation that answers a session keeps the invariant. -/
theorem performRunning_keeps_inv {op : Operation} {h h' : Session} (hs : h.state.Inv)
    (e : performRunning op h = .next h') : h'.state.Inv := by
  cases op with
  | step =>
    obtain ⟨t, ht, rfl⟩ | ⟨c, -, rfl⟩ := performStep_cases e
    · exact stepKeepsInvariant _ t hs ht
    · exact hs.fetched
  | timerTick => cases e; exact hs.congr rfl rfl
  | reset => cases e; exact resetState_inv h.state
  | keyWrite k b => cases e; exact hs.congr rfl rfl
  | load image =>
    obtain ⟨-, -, rfl⟩ := performLoad_cases e
    exact hs.memWriteBytes 0x200 image

/-- Every operation that answers a session keeps the invariant. -/
theorem perform_keeps_inv {op : Operation} {h h' : Session} (hs : h.state.Inv)
    (e : perform op h = .next h') : h'.state.Inv := by
  by_cases hr : h.Running
  · exact performRunning_keeps_inv hs ((perform_running hr op).symm.trans e)
  by_cases hop : op = .reset
  · subst hop
    cases (perform_reset h).symm.trans e
    exact resetState_inv h.state
  · cases (perform_refused_of_stopped hr hop).symm.trans e

/-- A schedule that answers a session has performed its first operation and then the rest. -/
theorem performAll_cons_eq_next {op : Operation} {ops : List Operation} {h h'' : Session}
    (e : performAll (op :: ops) h = .next h'') :
    ∃ h', perform op h = .next h' ∧ performAll ops h' = .next h'' := by
  rw [performAll] at e
  cases hp : perform op h with
  | next h' => rw [hp] at e; exact ⟨h', rfl, e⟩
  | fault c => rw [hp] at e; cases e
  | refused r => rw [hp] at e; cases e

/-- Every schedule keeps the invariant. -/
theorem performAll_keeps_inv {ops : List Operation} {h h' : Session} (hs : h.state.Inv)
    (e : performAll ops h = .next h') : h'.state.Inv := by
  induction ops generalizing h with
  | nil => cases e; exact hs
  | cons op ops ih =>
    obtain ⟨h₁, h₁_eq, rest⟩ := performAll_cons_eq_next e
    exact ih (perform_keeps_inv hs h₁_eq) rest

/-- Settles O13: the invariant holds after `Reset` and every operation keeps it. -/
theorem reachableSessionsMeetInvariant : Obligations.ReachableSessionsMeetInvariant := by
  unfold Obligations.ReachableSessionsMeetInvariant
  exact fun s ops h e => performAll_keeps_inv (resetState_inv s) e

/-! ### Conditions -/

/-- Under the invariant a Step reports one of three conditions: a fault of the effect is one of the
stack's, and the invariant leaves out the one that needs `sp` above 16. -/
theorem step_fault_cases {s : State} (hs : s.Inv) {c : Fault} (h : step s = .fault c) :
    (c = .unimplementedInstruction s.fetchWord ∧ decodeWord s.fetchWord = none) ∨
    (c = .stackOverflow ∧ (∃ nnn, decodeWord s.fetchWord = some (.call nnn)) ∧ s.sp = 16) ∨
    (c = .stackUnderflow ∧ decodeWord s.fetchWord = some .ret ∧ s.sp = 0) := by
  obtain ⟨hsp, -⟩ := hs
  cases hd : decodeWord s.fetchWord with
  | none =>
    cases h.symm.trans (step_of_decodeWord_eq_none hd)
    exact .inl ⟨rfl, rfl⟩
  | some i =>
    have hi := (step_of_decodeWord_eq_some hd).symm.trans h
    obtain ⟨t, e⟩ | ⟨nnn, rfl, hfull, e⟩ | ⟨rfl, hempty, e⟩ | ⟨-, hout, -⟩ := exec_cases i s.fetched
    · cases hi.symm.trans e
    · cases hi.symm.trans e
      exact .inr (.inl ⟨rfl, ⟨nnn, rfl⟩, BitVec.eq_of_toNat_eq (Nat.le_antisymm hsp hfull)⟩)
    · cases hi.symm.trans e
      exact .inr (.inr ⟨rfl, rfl, BitVec.eq_of_toNat_eq hempty⟩)
    · exact absurd hsp (Nat.not_le.mpr hout)

/-- A Step refuses nothing. -/
theorem step_ne_refused (s : State) (r : Refusal) : step s ≠ .refused r := by
  intro h
  cases hd : decodeWord s.fetchWord with
  | none => cases h.symm.trans (step_of_decodeWord_eq_none hd)
  | some i =>
    have hi := (step_of_decodeWord_eq_some hd).symm.trans h
    obtain ⟨t, e⟩ | ⟨_, -, -, e⟩ | ⟨-, -, e⟩ | ⟨-, -, e⟩ := exec_cases i s.fetched <;>
      cases hi.symm.trans e

/-- Settles O9: each cause makes the Step report its condition, and no other condition is left. -/
theorem stepConditionsHaveTheirCauses : Obligations.StepConditionsHaveTheirCauses := by
  unfold Obligations.StepConditionsHaveTheirCauses
  refine fun s hs => ⟨fun c => ⟨step_fault_cases hs, ?_⟩, step_ne_refused s⟩
  rintro (⟨rfl, hd⟩ | ⟨rfl, ⟨nnn, hd⟩, hsp⟩ | ⟨rfl, hd, hsp⟩)
  · exact step_of_decodeWord_eq_none hd
  · have hfull : 16 ≤ s.fetched.sp.toNat := by simp [hsp]
    exact (step_of_decodeWord_eq_some hd).trans (exec_call_of_full nnn hfull)
  · have hempty : s.fetched.sp.toNat = 0 := by simp [hsp]
    exact (step_of_decodeWord_eq_some hd).trans (exec_ret_of_empty hempty)

/-- Settles O8: the session records the condition with the fetched state. -/
theorem conditionsLeavePreciseState : Obligations.ConditionsLeavePreciseState := by
  unfold Obligations.ConditionsLeavePreciseState
  intro h c hr hc
  have e : perform .step h = .next ⟨h.state.fetched, some c, true⟩ := by
    rw [perform_running hr]
    simp only [performRunning, performStep, hc]
  exact ⟨_, e, rfl, rfl⟩

/-! ### Reset and the other operations of the host -/

/-- `Reset` gives every component its value of R42, whatever the state before. -/
theorem resetValues_resetState (s : State) : ResetValues (resetState s) where
  regs r := by simp [resetState, State.reset, State.getV]
  index := rfl
  pc := rfl
  sp := rfl
  stack k := by simp [resetState, State.reset]
  delay := rfl
  sound := rfl
  keys k := by simp [resetState, State.reset]
  opcode := rfl
  font := State.holdsFont_of_mem_eq State.reset_holdsFont rfl
  rest a ha hlt := by
    rw [State.memRead, Nat.mod_eq_of_lt hlt]
    exact resetByte_of_le ha
  pixels := pixel_blankDisplay

/-- Settles O51: `State.reset` is what `Reset` makes of it. -/
theorem resetLeavesInitialValues : Obligations.ResetLeavesInitialValues := by
  unfold Obligations.ResetLeavesInitialValues
  exact ⟨resetValues_resetState State.reset,
    fun h => ⟨_, perform_reset h, resetValues_resetState h.state, rfl, rfl⟩⟩

/-- Settles O10: a stopped session answers `Reset` and nothing else. -/
theorem onlyResetAfterCondition : Obligations.OnlyResetAfterCondition := by
  unfold Obligations.OnlyResetAfterCondition
  intro h op hr
  refine ⟨fun hop => perform_refused_of_stopped hr hop, ?_⟩
  rintro rfl
  exact ⟨_, perform_reset h, rfl, rfl, resetValues_resetState h.state⟩

/-- Settles O52. An image that fits is shorter than the memory, so no byte of it overwrites another. -/
theorem loadPlacesProgram : Obligations.LoadPlacesProgram := by
  unfold Obligations.LoadPlacesProgram
  intro h image hr
  have e : perform (.load image) h = performLoad h image := perform_running hr _
  rw [e]
  refine ⟨fun hs hlen => ?_, fun hs hlen => ?_, fun hs => ?_⟩
  · have placed : performLoad h image = .next { h with state := loadProgram h.state image } := by
      simp [performLoad, hs, hlen]
    refine ⟨_, placed, hr, fun k hk => ?_, h.state.onlyChanges_memWriteBytes 0x200 image⟩
    exact h.state.memWriteBytes_inside 0x200 image (by omega) k hk
  · simp [performLoad, hs, Nat.not_le.mpr hlen]
  · simp [performLoad, hs]

/-- The frame of a key write. -/
theorem State.onlyChanges_setKey (s : State) (k : Fin 16) (b : Bool) :
    OnlyChanges (· = .key k) s (s.setKey k b) :=
  fun _ hc => s.component_setKey k b hc

/-- Settles O53: no row names a key, and a key write is one write. -/
theorem keypadIsTheHosts : Obligations.KeypadIsTheHosts := by
  unfold Obligations.KeypadIsTheHosts
  refine ⟨fun s t ht k => ?_, fun h k b hr => ?_⟩
  · obtain ⟨i, -, hi⟩ := step_eq_next ht
    exact exec_key hi k
  · exact ⟨_, perform_running hr (.keyWrite k b), hr, by simp, h.state.onlyChanges_setKey k b⟩

end Sys2Proof.Machine
end

section
/-! PROOFS. What is not observed: the timers and `opcode` by the instructions that do not name them (R32,
45_timer_key.md section 3), and bits 15:12 of `pc`, I and the stack cells by any Step (R25, R28, decision
D2). In both parts two states are related, and every update keeps the relation. -/

namespace Sys2Proof.Machine

/-! ### Timers and opcode -/

/-- The state with other timers and another latched word, each a function of the old one. -/
def State.mapUnread (d e : Byte → Byte) (o : Word → Word) (s : State) : State :=
  { s with dt := d s.dt, st := e s.st, opcode := o s.opcode }

/-- A latch of another word is such a change. -/
theorem State.setOpcode_eq_mapUnread (s : State) (w : Word) :
    s.setOpcode w = s.mapUnread id id fun _ => w := rfl

/-- A tick is such a change. -/
theorem timerTick_eq_mapUnread (s : State) : timerTick s = s.mapUnread countDown countDown id := rfl

section
variable (d e : Byte → Byte) (o : Word → Word) (s : State)

theorem State.mapUnread_skipIf (c : Bool) :
    (s.mapUnread d e o).skipIf c = (s.skipIf c).mapUnread d e o := by
  cases c <;> rfl

theorem State.mapUnread_memWriteBytes (a : Nat) (bs : List Byte) :
    (s.mapUnread d e o).memWriteBytes a bs = (s.memWriteBytes a bs).mapUnread d e o := by
  induction bs generalizing s a with
  | nil => rfl
  | cons b bs ih => exact ih (s.memWrite a b) (a + 1)

/-- An instruction that names no timer commutes with a change of the timers and of `opcode`. -/
theorem exec_mapUnread {i : Instr} (hdt : ∀ x, i ≠ .ldVxDt x) (hsetDt : ∀ x, i ≠ .ldDtVx x)
    (hsetSt : ∀ x, i ≠ .ldStVx x) :
    SameOutcome (fun t u => u = t.mapUnread d e o) (exec i s) (exec i (s.mapUnread d e o)) := by
  cases i with
  | ldVxDt x => exact absurd rfl (hdt x)
  | ldDtVx x => exact absurd rfl (hsetDt x)
  | ldStVx x => exact absurd rfl (hsetSt x)
  | ret =>
    obtain ⟨k, hk, h⟩ | ⟨h0, h⟩ | ⟨hout, h⟩ := exec_ret_cases s <;> rw [h]
    · rw [exec_ret_of_live (s := s.mapUnread d e o) hk]
      exact rfl
    · rw [exec_ret_of_empty (s := s.mapUnread d e o) h0]
      exact rfl
    · rw [exec_ret_of_outside (s := s.mapUnread d e o) hout]
      exact rfl
  | call nnn =>
    obtain ⟨k, hk, h⟩ | ⟨hfull, h⟩ := exec_call_cases nnn s <;> rw [h]
    · rw [exec_call_of_free (s := s.mapUnread d e o) nnn hk]
      exact rfl
    · rw [exec_call_of_full (s := s.mapUnread d e o) nnn hfull]
      exact rfl
  | ldVxK x =>
    cases hk : s.firstKey with
    | some k =>
      rw [exec_ldVxK_of_some x hk, exec_ldVxK_of_some (s := s.mapUnread d e o) x hk]
      exact rfl
    | none =>
      rw [exec_ldVxK_of_none x hk, exec_ldVxK_of_none (s := s.mapUnread d e o) x hk]
      exact rfl
  | seImm | sneImm | seReg | sneReg | skp | sknp => exact s.mapUnread_skipIf d e o _
  | ldB | ldMemV => exact s.mapUnread_memWriteBytes d e o _ _
  | _ => exact rfl

end

/-- Settles O16: the timer instructions, which `exec_mapUnread` leaves out, do not read `opcode` either. -/
theorem opcodeRegisterIsUnobservable : Obligations.OpcodeRegisterIsUnobservable := by
  unfold Obligations.OpcodeRegisterIsUnobservable
  intro i s w
  cases i with
  | ldVxDt | ldDtVx | ldStVx => exact rfl
  | _ =>
    simp only [State.setOpcode_eq_mapUnread]
    exact exec_mapUnread id id (fun _ => w) s (by simp) (by simp) (by simp)

/-- Settles O50: a tick changes the timers only. -/
theorem ticksCommuteWithOtherInstructions : Obligations.TicksCommuteWithOtherInstructions := by
  unfold Obligations.TicksCommuteWithOtherInstructions
  intro i s hdt hsetDt hsetSt
  simp only [timerTick_eq_mapUnread]
  exact exec_mapUnread countDown countDown id s hdt hsetDt hsetSt

/-! ### Addresses mod 4096 -/

/-- A word added to words that agree mod 4096 keeps the agreement, since 4096 divides 2^16. -/
theorem word_add_mod_4096 {a b : Word} (h : b.toNat % 4096 = a.toNat % 4096) (c : Word) :
    (b + c).toNat % 4096 = (a + c).toNat % 4096 := by
  rw [BitVec.toNat_add, BitVec.toNat_add]
  omega

namespace SameMod4096

variable {s t : State}

/-! What is read is the same. -/

theorem getV (h : SameMod4096 s t) (r : Reg) : t.getV r = s.getV r := congrArg (·[r]) h.v

theorem memRead (h : SameMod4096 s t) {a b : Nat} (hab : b % 4096 = a % 4096) :
    t.memRead b = s.memRead a := by
  rw [State.memRead, State.memRead, h.mem, hab]

theorem fetchWord (h : SameMod4096 s t) : t.fetchWord = s.fetchWord := by
  have next : (t.pc.toNat + 1) % 4096 = (s.pc.toNat + 1) % 4096 := Nat.ModEq.add_right 1 h.pc
  rw [State.fetchWord, State.fetchWord, h.memRead h.pc, h.memRead next]

theorem memRead_index (h : SameMod4096 s t) (k : Nat) :
    t.memRead (t.i.toNat + k) = s.memRead (s.i.toNat + k) :=
  h.memRead (Nat.ModEq.add_right k h.index)

theorem keySelected (h : SameMod4096 s t) (x : Reg) : t.keySelected x = s.keySelected x := by
  simp only [State.keySelected, h.getV, h.key]

theorem firstKey (h : SameMod4096 s t) : t.firstKey = s.firstKey := by
  rw [State.firstKey, State.firstKey, h.key]

theorem drawSprite (h : SameMod4096 s t) (x y : Reg) (n : Nat) :
    t.drawSprite x y n = s.drawSprite x y n := by
  have bytes : t.memReadBytes t.indexBase n = s.memReadBytes s.indexBase n :=
    List.map_congr_left fun k _ => h.memRead_index k
  rw [State.drawSprite, State.drawSprite, bytes, h.gfx, h.getV, h.getV]

theorem regsUpTo (h : SameMod4096 s t) (x : Reg) : t.regsUpTo x = s.regsUpTo x := by
  rw [State.regsUpTo, State.regsUpTo, h.v]

/-! Every update keeps the relation. -/

theorem setRegs (h : SameMod4096 s t) {v w : Vector Byte 16} (e : w = v) :
    SameMod4096 (s.setRegs v) (t.setRegs w) :=
  { h with v := e }

theorem setV (h : SameMod4096 s t) (r : Reg) {a b : Byte} (e : b = a) :
    SameMod4096 (s.setV r a) (t.setV r b) :=
  { h with v := by rw [State.setV_v, State.setV_v, h.v, e] }

theorem setResultAndFlag (h : SameMod4096 s t) (x : Reg) {a b : Byte} {f g : Bool} (e : b = a)
    (eflag : g = f) : SameMod4096 (s.setResultAndFlag x a f) (t.setResultAndFlag x b g) :=
  (h.setV x e).setV 15 (congrArg flagByte eflag)

theorem setI (h : SameMod4096 s t) {a b : Word} (e : b.toNat % 4096 = a.toNat % 4096) :
    SameMod4096 (s.setI a) (t.setI b) :=
  { h with index := e }

theorem setPc (h : SameMod4096 s t) {a b : Word} (e : b.toNat % 4096 = a.toNat % 4096) :
    SameMod4096 (s.setPc a) (t.setPc b) :=
  { h with pc := e }

theorem setSp (h : SameMod4096 s t) {a b : Byte} (e : b = a) :
    SameMod4096 (s.setSp a) (t.setSp b) :=
  { h with sp := e }

theorem setCell (h : SameMod4096 s t) (k : Fin 16) {a b : Word}
    (e : b.toNat % 4096 = a.toNat % 4096) : SameMod4096 (s.setCell k a) (t.setCell k b) :=
  { h with
    stack := fun j => by
      by_cases hj : k.val = j.val
      · simpa [hj] using e
      · simpa [hj] using h.stack j }

theorem setDt (h : SameMod4096 s t) {a b : Byte} (e : b = a) : SameMod4096 (s.setDt a) (t.setDt b) :=
  { h with dt := e }

theorem setSt (h : SameMod4096 s t) {a b : Byte} (e : b = a) : SameMod4096 (s.setSt a) (t.setSt b) :=
  { h with st := e }

theorem setOpcode (h : SameMod4096 s t) {a b : Word} (e : b = a) :
    SameMod4096 (s.setOpcode a) (t.setOpcode b) :=
  { h with opcode := e }

theorem setMem (h : SameMod4096 s t) {m n : Memory} (e : n = m) :
    SameMod4096 (s.setMem m) (t.setMem n) :=
  { h with mem := e }

theorem setGfx (h : SameMod4096 s t) {f g : Display} (e : g = f) :
    SameMod4096 (s.setGfx f) (t.setGfx g) :=
  { h with gfx := e }

theorem countDraw (h : SameMod4096 s t) : SameMod4096 s.countDraw t.countDraw :=
  { h with draws := congrArg (· + 1) h.draws }

theorem skipIf (h : SameMod4096 s t) {c d : Bool} (e : d = c) :
    SameMod4096 (s.skipIf c) (t.skipIf d) := by
  subst e
  cases d with
  | false => exact h
  | true => exact h.setPc (word_add_mod_4096 h.pc 2)

theorem memWriteBytes (h : SameMod4096 s t) {a b : Nat} (hab : b % 4096 = a % 4096) (bs : List Byte) :
    SameMod4096 (s.memWriteBytes a bs) (t.memWriteBytes b bs) := by
  induction bs generalizing s t a b with
  | nil => exact h
  | cons c bs ih =>
    have stored : SameMod4096 (s.memWrite a c) (t.memWrite b c) := h.setMem (by rw [h.mem, hab])
    exact ih stored (Nat.ModEq.add_right 1 hab)

theorem loadRegs (h : SameMod4096 s t) (x : Reg) :
    SameMod4096 (s.loadRegs s.i.toNat x) (t.loadRegs t.i.toNat x) :=
  h.setRegs (by simp only [h.memRead_index, h.getV])

theorem fetched (h : SameMod4096 s t) : SameMod4096 s.fetched t.fetched :=
  (h.setOpcode h.fetchWord).setPc (word_add_mod_4096 h.pc 2)

/-! The instructions that branch. -/

theorem exec_ret (h : SameMod4096 s t) : SameOutcome SameMod4096 (exec .ret s) (exec .ret t) := by
  have hsp : t.sp.toNat = s.sp.toNat := congrArg BitVec.toNat h.sp
  obtain ⟨k, hk, e⟩ | ⟨h0, e⟩ | ⟨hout, e⟩ := exec_ret_cases s <;> rw [e]
  · rw [exec_ret_of_live (hsp.trans hk)]
    exact (h.setSp (by rw [h.sp])).setPc (h.stack k)
  · rw [exec_ret_of_empty (hsp.trans h0)]
    exact rfl
  · rw [exec_ret_of_outside (hsp ▸ hout)]
    exact rfl

theorem exec_call (h : SameMod4096 s t) (nnn : Addr) :
    SameOutcome SameMod4096 (exec (.call nnn) s) (exec (.call nnn) t) := by
  have hsp : t.sp.toNat = s.sp.toNat := congrArg BitVec.toNat h.sp
  obtain ⟨k, hk, e⟩ | ⟨hfull, e⟩ := exec_call_cases nnn s <;> rw [e]
  · rw [exec_call_of_free nnn (hsp.trans hk)]
    exact ((h.setCell k h.pc).setSp (by rw [h.sp])).setPc rfl
  · rw [exec_call_of_full nnn (hsp ▸ hfull)]
    exact rfl

theorem exec_ldVxK (h : SameMod4096 s t) (x : Reg) :
    SameOutcome SameMod4096 (exec (.ldVxK x) s) (exec (.ldVxK x) t) := by
  cases hk : s.firstKey with
  | some k =>
    rw [exec_ldVxK_of_some x hk, exec_ldVxK_of_some x (h.firstKey.trans hk)]
    exact h.setV x rfl
  | none =>
    rw [exec_ldVxK_of_none x hk, exec_ldVxK_of_none x (h.firstKey.trans hk), BitVec.sub_eq_add_neg,
      BitVec.sub_eq_add_neg]
    exact h.setPc (word_add_mod_4096 h.pc _)

/-- Every instruction keeps the relation: each reads related states alike and makes the same updates. -/
theorem exec_sameOutcome (h : SameMod4096 s t) (i : Instr) :
    SameOutcome SameMod4096 (exec i s) (exec i t) := by
  cases i with
  | cls => exact h.setGfx rfl
  | ret => exact h.exec_ret
  | call nnn => exact h.exec_call nnn
  | jp => exact h.setPc rfl
  | jpV0 => exact h.setPc (by rw [h.getV])
  | seImm | sneImm | seReg | sneReg => exact h.skipIf (by simp only [h.getV])
  | skp x | sknp x => exact h.skipIf (by rw [h.keySelected])
  | ldImm x | addImm x | ldReg x | orReg x | andReg x | xorReg x =>
    exact h.setV x (by simp only [h.getV])
  | addReg x | subReg x | shr x | subnReg x | shl x =>
    exact h.setResultAndFlag x (by simp only [h.getV]) (by simp only [h.getV])
  | ldI => exact h.setI rfl
  | addI x =>
    rw [exec_addI, exec_addI, h.getV]
    exact h.setI (word_add_mod_4096 h.index _)
  | ldF => exact h.setI (by rw [h.getV])
  | rnd x => exact (h.setV x (by rw [State.draw8, State.draw8, h.draws])).countDraw
  | drw x y n =>
    rw [exec_drw, exec_drw, h.drawSprite]
    exact (h.setGfx rfl).setV 15 rfl
  | ldVxDt x => exact h.setV x h.dt
  | ldVxK x => exact h.exec_ldVxK x
  | ldDtVx x => exact h.setDt (h.getV x)
  | ldStVx x => exact h.setSt (h.getV x)
  | ldB x =>
    rw [exec_ldB, exec_ldB, h.getV]
    exact h.memWriteBytes h.index _
  | ldMemV x =>
    rw [exec_ldMemV, exec_ldMemV, h.regsUpTo]
    exact h.memWriteBytes h.index _
  | ldVMem x => exact h.loadRegs x

end SameMod4096

/-- Settles O15: related states fetch the same word, and the fetch and the instruction keep the relation. -/
theorem highAddressBitsAreUnobservable : Obligations.HighAddressBitsAreUnobservable := by
  unfold Obligations.HighAddressBitsAreUnobservable
  intro s t h
  cases hd : decodeWord s.fetchWord with
  | some i =>
    rw [step_of_decodeWord_eq_some hd, step_of_decodeWord_eq_some (h.fetchWord ▸ hd)]
    exact h.fetched.exec_sameOutcome i
  | none =>
    rw [step_of_decodeWord_eq_none hd, step_of_decodeWord_eq_none (h.fetchWord ▸ hd), h.fetchWord]
    exact rfl

end Sys2Proof.Machine
end
